-- ==== Sys2Proof/Word.lean ====
section
/-! DEFINITION. The word type of SERPENT_CORE and its quadruples (00_scope.md R7, R8). -/

namespace Sys2Proof

/-- An unsigned 32-bit value, bit 0 the least significant (R7). -/
abbrev Word := BitVec 32

/-- One byte of a key or block byte sequence (R11). -/
abbrev Byte := BitVec 8

/-- An ordered quadruple of words, `Q.i` being word `i` (R8). -/
structure Quad where
  w0 : Word
  w1 : Word
  w2 : Word
  w3 : Word
deriving DecidableEq, Repr, Inhabited

/-- The quadruple of zeros. -/
def Quad.zero : Quad := ⟨0#32, 0#32, 0#32, 0#32⟩

end Sys2Proof
end

