-- ==== Sys2Proof/Syntax.lean ====
section
/-! DEFINITION. The operations of SERPENT_CORE, one constructor per row of spec/opcode_table.json:
the four commands a host can issue (30_encoding.md R72) and the internal datapath operations that the
round-network controller sequences (R76). -/

namespace Sys2Proof

inductive Instr where
  /-- NOP, command 0 (44_round_network.md R218). -/
  | nop
  /-- SET_KEY, command 1 (43_key_schedule.md R183). -/
  | setKey
  /-- ENCRYPT, command 2 (44_round_network.md R212). -/
  | encrypt
  /-- DECRYPT, command 3 (44_round_network.md R217). -/
  | decrypt
  /-- ROTL32 of `x` by `n` (40_word_primitives.md R100). -/
  | rotl32 (x : Word) (n : Nat)
  /-- ROTR32 of `x` by `n` (R101). -/
  | rotr32 (x : Word) (n : Nat)
  /-- SHL32 of `x` by `n` in 0..31 (R102). -/
  | shl32 (x : Word) (n : Fin 32)
  /-- BSWAP32 of `x` (R103). -/
  | bswap32 (x : Word)
  /-- S0 .. S7, the forward S-boxes (41_substitution.md R122-R129). -/
  | s0
  | s1
  | s2
  | s3
  | s4
  | s5
  | s6
  | s7
  /-- I0 .. I7, the inverse S-boxes (41_substitution.md R130-R137). -/
  | i0
  | i1
  | i2
  | i3
  | i4
  | i5
  | i6
  | i7
  /-- LT, the linear transformation (42_linear_transform.md R150). -/
  | lt
  /-- ILT, its inverse (R151). -/
  | ilt
  /-- KEYMIX with round key `k` (44_round_network.md R200). -/
  | keymix (k : Fin 33)
  /-- KS_PAD, padding of the key to eight words (43_key_schedule.md R172). -/
  | ksPad
  /-- KS_STEP, one recurrence micro-step (R179). -/
  | ksStep
  /-- KS_SBOX of group `k` (R180). -/
  | ksSbox (k : Fin 33)
deriving DecidableEq, Repr

end Sys2Proof
end

