-- ==== Sys2Proof/WellFormed.lean ====
section
/-! DEFINITION. Which instructions have operands inside the domain of their rule. -/

namespace Sys2Proof

/-- A rotation amount is legal when `0 < n < 32` (40_word_primitives.md R100, R101). -/
def rotateAmountOk (n : Nat) : Bool := decide (0 < n) && decide (n < 32)

/-- Well-formed instructions. The other operand domains (a shift by 0..31, a round key 0..32) hold by their types. -/
def Instr.wf : Instr → Bool
  | .rotl32 _ n => rotateAmountOk n
  | .rotr32 _ n => rotateAmountOk n
  | .nop | .setKey | .encrypt | .decrypt => true
  | .shl32 _ _ | .bswap32 _ => true
  | .s0 | .s1 | .s2 | .s3 | .s4 | .s5 | .s6 | .s7 => true
  | .i0 | .i1 | .i2 | .i3 | .i4 | .i5 | .i6 | .i7 => true
  | .lt | .ilt | .keymix _ => true
  | .ksPad | .ksStep | .ksSbox _ => true

end Sys2Proof
end

