-- ==== Sys2Proof/Decode.lean ====
section
/-! DEFINITION. Command words: byte order (00_scope.md R11), decoding (30_encoding.md R71-R75) and encoding (R72). -/

namespace Sys2Proof

/-- `le32(m, i)`: word `i` of a byte sequence, byte `4i` the least significant (00_scope.md R11).
A byte past the end of the sequence reads as zero; no rule asks for one. -/
def le32 (m : List Byte) (i : Nat) : Word :=
  m.getD (4 * i + 3) 0#8 ++ m.getD (4 * i + 2) 0#8 ++ m.getD (4 * i + 1) 0#8 ++ m.getD (4 * i) 0#8

/-- `bytes_le(w)`: the four bytes of a word, the least significant first (00_scope.md R11). -/
def bytesLe (w : Word) : List Byte :=
  [w.extractLsb' 0 8, w.extractLsb' 8 8, w.extractLsb' 16 8, w.extractLsb' 24 8]

/-- `OP = c[3:0]` (30_encoding.md R71). -/
def opField (c : Word) : BitVec 4 := c.extractLsb' 0 4

/-- `RSVD = c[31:4]` (30_encoding.md R71). -/
def rsvdField (c : Word) : BitVec 28 := c.extractLsb' 4 28

/-- Why bytes are no command. -/
inductive Reject where
  /-- ILLEGAL(c): `c[31:4]` is not zero (R74, R75). -/
  | rsvdNonzero (c : Word)
  /-- ILLEGAL(c): `c[31:4]` is zero and OP is in 0x4..0xF (R74, R75). -/
  | reservedOp (c : Word)
  /-- Fewer than the four bytes every command has (R70). -/
  | truncated (bytes : Nat)
deriving DecidableEq, Repr

/-- What decoding answers: an instruction or a rejection by name. -/
inductive Decoded where
  | instr (i : Instr)
  | reject (r : Reject)
deriving DecidableEq, Repr

/-- `decode(c)`, a total function on any 32-bit value (30_encoding.md R75). -/
def decodeWord (c : Word) : Decoded :=
  if rsvdField c ≠ 0#28 then .reject (.rsvdNonzero c)
  else if opField c = 0x0#4 then .instr .nop
  else if opField c = 0x1#4 then .instr .setKey
  else if opField c = 0x2#4 then .instr .encrypt
  else if opField c = 0x3#4 then .instr .decrypt
  else .reject (.reservedOp c)

/-- Decoding of a command given as bytes, in the little-endian order of the window (20_memory.md R54). -/
def decode (bs : List Byte) : Decoded :=
  if bs.length < 4 then .reject (.truncated bs.length) else decodeWord (le32 bs 0)

/-- `match(OP)`, the command word with opcode `op` and RSVD zero (30_encoding.md R72). -/
def commandWord (op : BitVec 4) : Word := 0#28 ++ op

/-- The opcode of a command (30_encoding.md R72); the internal operations have none (R76). -/
def opcode : Instr → Option (BitVec 4)
  | .nop => some 0x0#4
  | .setKey => some 0x1#4
  | .encrypt => some 0x2#4
  | .decrypt => some 0x3#4
  | .rotl32 _ _ | .rotr32 _ _ | .shl32 _ _ | .bswap32 _ => none
  | .s0 | .s1 | .s2 | .s3 | .s4 | .s5 | .s6 | .s7 => none
  | .i0 | .i1 | .i2 | .i3 | .i4 | .i5 | .i6 | .i7 => none
  | .lt | .ilt | .keymix _ => none
  | .ksPad | .ksStep | .ksSbox _ => none

/-- The command word of an instruction, none for an internal operation (30_encoding.md R72, R76). -/
def encode (i : Instr) : Option Word := (opcode i).map commandWord

/-- The bytes of a command at rising addresses. -/
def encodeBytes (i : Instr) : Option (List Byte) := (encode i).map bytesLe

/-- The instruction read from a table word: its bits above `nbits` are zero, its four bytes lie in the window's byte order. -/
def tableWord (nbits w : Nat) : Word := BitVec.ofNat 32 (w % 2 ^ nbits)

/-- What the decoder gives for bits `w` of a row with `nbits` bits in spec/opcode_table.json. -/
def decodeTableWord (nbits w : Nat) : Option Instr :=
  match decode (bytesLe (tableWord nbits w)) with
  | .instr i => some i
  | .reject _ => none

end Sys2Proof
end

