-- ==== Sys2Proof/Machine/State.lean ====
section
/-! DEFINITION. The state of SERPENT_CORE and of its host: host-visible registers, internal stores and controller
(10_state.md), the model-only fault record and written marks (R38, R39), and the host program that drives the
window (30_encoding.md R77). -/

namespace Sys2Proof.Machine

/-- The result codes of STATUS.ERR (10_state.md R29). Codes 5..15 are never written and have no constructor. -/
inductive ErrCode where
  | none
  | invalidKeyLength
  | keyTooLong
  | noSchedule
  | illegalCommand
deriving DecidableEq, Repr

/-- The fields of STATUS (10_state.md R24); the register's word is `Status.word`. -/
structure Status where
  busy : Bool
  keyValid : Bool
  doutValid : Bool
  protoErr : Bool
  err : ErrCode
deriving DecidableEq, Repr

/-- The host-visible registers (10_state.md R20). -/
inductive Reg where
  | blockSize
  | keySize
  | cmd
  | status
  | keyLen
  | key (i : Fin 8)
  | din (i : Fin 4)
  | dout (i : Fin 4)
deriving DecidableEq, Repr

/-- The phases of the round-network controller (44_round_network.md R219). -/
inductive Phase where
  | idle
  | ksStep
  | ksSbox
  | encMix
  | encSbox
  | encLt
  | encFinal
  | decMix32
  | decIlt
  | decIsbox
  | decMix
deriving DecidableEq, Repr

/-- `ACT`: the bank that holds the working state, 0 = A and 1 = B (10_state.md R36). -/
inductive Bank where
  | a
  | b
deriving DecidableEq, Repr

/-- The fault reasons, a closed set (60_exceptions.md R261). A step records one in `State.faults` and is a next state with the
hardware's effect; a step from a state with a recorded fault answers the first of them. That there is no further step is no
choice of this model: R255 states "neither the host nor the core has a further step", for each of the seven reasons alike
(70_reset_and_hazards.md R292; 93_implementation_defined.md U20, `stuck`). Each stop is safe. -/
inductive Fault where
  /-- The host wrote `v` to CMD, KEY_LEN, KEY[i] or DIN[i] while BUSY = 1 (R256). Raised by the host write. -/
  | busyWrite (r : Reg) (v : Word)
  /-- The host read DOUT[i] while DOUT_VALID = 0: "The model faults instead of inventing a value" (R257;
  93_implementation_defined.md U3, `fault`). Raised by the host read. Safe. -/
  | doutUnwritten (i : Fin 4)
  /-- A command consumed KEY[i] or DIN[i] with written mark 0, or the host read DIN[i] with mark 0: "The model faults" (R258;
  93_implementation_defined.md U1, U2, `fault`). Raised by SET_KEY, ENCRYPT, DECRYPT, KS_PAD and the host read. Safe. -/
  | unwrittenInput (r : Reg)
  /-- A host access to an undecoded offset (R259). Raised by the host access. -/
  | busUnmapped (off : BitVec 8)
  /-- A host access that is not an aligned 32-bit access (R259). Raised by the host access. -/
  | busWidth (off : BitVec 8) (n : Nat)
  /-- A reserved command word (R260). Raised by the host write of it to CMD. -/
  | illegalCommand (c : Word)
  /-- ENCRYPT or DECRYPT without a schedule (R260). Raised by those commands. -/
  | noSchedule
deriving DecidableEq, Repr

/-- Why an instruction has no meaning. Each is safe: the model stops. -/
inductive Refusal where
  /-- An instruction without a meaning yet. Raised by no arm of `exec`. -/
  | notModelled (mnemonic : String)
  /-- ROTL32 or ROTR32 with an amount outside 1..31, which a model refuses (40_word_primitives.md R100, R101; D33). -/
  | rotateAmount (n : Nat)
  /-- KS_PAD with a KEY_LEN that fails validation: outside its operand domain (43_key_schedule.md R172). -/
  | padLength (n : Word)
  /-- KS_STEP with STEP = 132: outside its operand domain 0..131 (43_key_schedule.md R179). -/
  | stepExhausted
deriving DecidableEq, Repr

/-- What one line of a host program does on the bus (30_encoding.md R77, R78). -/
inductive HostOp where
  /-- `W off v`: a host write of `n` bytes at offset `off`; only `n = 4` is admitted (20_memory.md R53). -/
  | write (off : BitVec 8) (n : Nat) (v : Word)
  /-- `R off`: a host read of `n` bytes at offset `off` into the host variable `x`. -/
  | read (off : BitVec 8) (n : Nat) (x : Nat)
  /-- `wait`: STATUS is polled into the host variable `x` until BUSY = 0. -/
  | wait (x : Nat)
deriving DecidableEq, Repr

/-- A host line and `gap`, the number of micro-steps the core takes before the line, if it has as many left.
The gaps of a program fix one interleaving of host and core (20_memory.md R59, 60_exceptions.md R254). -/
structure HostLine where
  gap : Nat
  op : HostOp
deriving DecidableEq, Repr

structure State where
  /-- STATUS (10_state.md R24-R29). -/
  status : Status
  /-- KEY_LEN (R30). -/
  keyLen : Word
  /-- KEY[0..7] (R31). -/
  key : Vector Word 8
  /-- DIN[0..3] (R32). -/
  din : Quad
  /-- DOUT[0..3] (R33). -/
  dout : Quad
  /-- RK[0..32] (R34). -/
  rk : Vector Quad 33
  /-- bank A (R35). -/
  bankA : Quad
  /-- bank B (R35). -/
  bankB : Quad
  /-- PW[0..7] (R37). -/
  pw : Vector Word 8
  /-- PHASE (R36). -/
  phase : Phase
  /-- OPC (R36). -/
  opc : BitVec 4
  /-- RND, 0..32 (R36). -/
  rnd : Fin 33
  /-- STEP, 0..132 (R36). -/
  stepIdx : Fin 133
  /-- ACT (R36). -/
  act : Bank
  /-- FAULTS, without repeats, the first raised first (R38). -/
  faults : List Fault
  /-- KEY_W[0..7] (R39). -/
  keyW : Vector Bool 8
  /-- DIN_W[0..3] (R39). -/
  dinW : Vector Bool 4
  /-- The host program's lines still to run (30_encoding.md R77; 70_reset_and_hazards.md R292). -/
  host : List HostLine
  /-- The host's variables and their values, numbers strictly rising (30_encoding.md R77). -/
  vars : List (Nat × Word)
  /-- What the word primitives answer: the model's own field, which nothing reads (log 8). -/
  primOut : Word
deriving DecidableEq, Repr

/-- The machine right after reset (10_state.md R41; 70_reset_and_hazards.md R280). The registers R41 leaves
unspecified hold zero, and ACT names bank A: DESIGN CHOICE, unsafe (log 6). -/
def State.reset : State where
  status := ⟨false, false, false, false, .none⟩
  keyLen := 0#32
  key := Vector.replicate 8 0#32
  din := Quad.zero
  dout := Quad.zero
  rk := Vector.replicate 33 Quad.zero
  bankA := Quad.zero
  bankB := Quad.zero
  pw := Vector.replicate 8 0#32
  phase := .idle
  opc := 0#4
  rnd := 0
  stepIdx := 0
  act := .a
  faults := []
  keyW := Vector.replicate 8 false
  dinW := Vector.replicate 4 false
  host := []
  vars := []
  primOut := 0#32

end Sys2Proof.Machine
end

