-- ==== Sys2Proof/Machine/Operands.lean ====
section
/-! DEFINITION. The operand forms of SERPENT_CORE: quadruples, banks, the fixed constants, the registers at the offsets
of the window, and which accesses are admitted. -/

namespace Sys2Proof

/-- `Q ^ K`, word by word (00_scope.md R8). -/
def Quad.xor (q k : Quad) : Quad := ⟨q.w0 ^^^ k.w0, q.w1 ^^^ k.w1, q.w2 ^^^ k.w2, q.w3 ^^^ k.w3⟩

/-- `Q.i` (00_scope.md R8). -/
def Quad.get (q : Quad) : Fin 4 → Word
  | 0 => q.w0
  | 1 => q.w1
  | 2 => q.w2
  | 3 => q.w3

/-- `Q.i <- v`. -/
def Quad.set (q : Quad) (i : Fin 4) (v : Word) : Quad :=
  match i with
  | 0 => { q with w0 := v }
  | 1 => { q with w1 := v }
  | 2 => { q with w2 := v }
  | 3 => { q with w3 := v }

namespace Machine

/-- BLOCK_SIZE, the constant 16 (10_state.md R21). -/
def blockSizeValue : Word := 16#32

/-- KEY_SIZE, the constant 32 (10_state.md R22). -/
def keySizeValue : Word := 32#32

/-- `PHI` (43_key_schedule.md R175). -/
def phi : Word := 0x9E3779B9#32

/-- The rotation of the recurrence (43_key_schedule.md R174). -/
def ksRot : Nat := 11

/-- The last round key's index: 33 round keys, 0..32 (00_scope.md R5). -/
def lastKey : Fin 33 := 32

/-- The other bank, `1 - ACT` (44_round_network.md R207). -/
def Bank.other : Bank → Bank
  | .a => .b
  | .b => .a

/-- The quadruple in a bank (44_round_network.md R207). -/
def State.bank (s : State) : Bank → Quad
  | .a => s.bankA
  | .b => s.bankB

/-- `bank(x) <- q`. -/
def State.setBank (s : State) (x : Bank) (q : Quad) : State :=
  match x with
  | .a => { s with bankA := q }
  | .b => { s with bankB := q }

/-- `bank(ACT)`, the working state of a block command (44_round_network.md R204). -/
def State.active (s : State) : Quad := s.bank s.act

/-- An operation in place on bank ACT: KEYMIX, LT, ILT (44_round_network.md R204). -/
def State.inPlace (s : State) (f : Quad → Quad) : State := s.setBank s.act (f s.active)

/-- An S-box micro-step: bank ACT through `f` into the other bank, and ACT toggles (44_round_network.md R204). -/
def State.across (s : State) (f : Quad → Quad) : State :=
  { s.setBank s.act.other (f s.active) with act := s.act.other }

/-- The quadruple `{PW[4], PW[5], PW[6], PW[7]}` that KS_SBOX reads (43_key_schedule.md R180). -/
def State.pwGroup (s : State) : Quad := ⟨s.pw[4], s.pw[5], s.pw[6], s.pw[7]⟩

/-- The number of the S-box of key-schedule group `k`: `(3 - k) mod 8`, the non-negative remainder (43_key_schedule.md R177). -/
def groupBox (k : Fin 33) : Fin 8 := Fin.ofNat 8 ((3 - (k.val : Int)) % 8).toNat

/-- The number of the S-box of round `r`: `r mod 8` (41_substitution.md R139). -/
def roundBox (r : Fin 33) : Fin 8 := Fin.ofNat 8 (r.val % 8)

/-- The register at a decoded offset of the window (10_state.md R20). -/
def Reg.atOffset (off : BitVec 8) : Option Reg :=
  let n := off.toNat
  if n = 0x00 then some .blockSize
  else if n = 0x04 then some .keySize
  else if n = 0x08 then some .cmd
  else if n = 0x0C then some .status
  else if n = 0x10 then some .keyLen
  else if n % 4 = 0 ∧ 0x20 ≤ n ∧ n < 0x40 then some (.key (Fin.ofNat 8 ((n - 0x20) / 4)))
  else if n % 4 = 0 ∧ 0x40 ≤ n ∧ n < 0x50 then some (.din (Fin.ofNat 4 ((n - 0x40) / 4)))
  else if n % 4 = 0 ∧ 0x50 ≤ n ∧ n < 0x60 then some (.dout (Fin.ofNat 4 ((n - 0x50) / 4)))
  else none

/-- The offset of a register from BASE (10_state.md R20). -/
def Reg.offset : Reg → BitVec 8
  | .blockSize => 0x00#8
  | .keySize => 0x04#8
  | .cmd => 0x08#8
  | .status => 0x0C#8
  | .keyLen => 0x10#8
  | .key i => BitVec.ofNat 8 (0x20 + 4 * i.val)
  | .din i => BitVec.ofNat 8 (0x40 + 4 * i.val)
  | .dout i => BitVec.ofNat 8 (0x50 + 4 * i.val)

/-- Offsets that hold no register: 0x14..0x1F and 0x60..0xFF (20_memory.md R52). -/
def undecoded (off : BitVec 8) : Bool :=
  (decide (0x14 ≤ off.toNat) && decide (off.toNat ≤ 0x1F)) || decide (0x60 ≤ off.toNat)

/-- The only admitted width and alignment: 32 bits at a multiple of 4 (20_memory.md R53). -/
def admitted (off : BitVec 8) (n : Nat) : Bool := decide (n = 4) && decide (off.toNat % 4 = 0)

/-- The faults of an access by its offset and width alone (20_memory.md R52, R53). An access that both rules name
records both faults (log 5). -/
def accessFaults (off : BitVec 8) (n : Nat) : List Fault :=
  (if undecoded off then [.busUnmapped off] else []) ++ (if admitted off n then [] else [.busWidth off n])

end Machine

end Sys2Proof
end

