-- ==== Sys2Proof/Machine/Flags.lean ====
section
/-! DEFINITION. STATUS as a word, its result codes, and the key-length check that chooses one. -/

namespace Sys2Proof.Machine

/-- The number of a result code in STATUS[11:8] (10_state.md R29). -/
def ErrCode.code : ErrCode → BitVec 4
  | .none => 0#4
  | .invalidKeyLength => 1#4
  | .keyTooLong => 2#4
  | .noSchedule => 3#4
  | .illegalCommand => 4#4

/-- The word a read of STATUS gives (10_state.md R24): ERR in [11:8], PROTO_ERR, DOUT_VALID, KEY_VALID and BUSY in
bits 3, 2, 1, 0, the reserved bits zero. -/
def Status.word (t : Status) : Word :=
  0#20 ++ t.err.code ++ 0#4 ++ BitVec.ofBool t.protoErr ++ BitVec.ofBool t.doutValid ++ BitVec.ofBool t.keyValid
    ++ BitVec.ofBool t.busy

/-- `validate(n)`: the error of an illegal key length, none for OK (43_key_schedule.md R171). -/
def validate (n : Word) : Option ErrCode :=
  if n.toNat % 4 ≠ 0 then some .invalidKeyLength
  else if 32 < n.toNat then some .keyTooLong
  else none

end Sys2Proof.Machine
end

