-- ==== Sys2Proof/Machine/Ops.lean ====
section
/-! DEFINITION. The named operations over the state: raising a fault, completing a command, the busy write, the
registers of the window, the host's variables, and what reset leaves. -/

namespace Sys2Proof.Machine

/-- `raise Fault(f)` adds `f` to the set FAULTS and changes nothing else (60_exceptions.md R255). SERPENT_CORE has no
trap: no pc, cause or mode is saved or changed and no vector is taken (R250, R262). -/
def State.raise (s : State) (f : Fault) : State :=
  { s with faults := if f ∈ s.faults then s.faults else s.faults ++ [f] }

/-- `raise` of each fault of a list, in order. -/
def State.raiseAll (s : State) (fs : List Fault) : State := fs.foldl State.raise s

/-- `complete(code)`: ERR gets the code and BUSY is cleared (00_scope.md R9, 10_state.md R29). -/
def State.complete (s : State) (code : ErrCode) : State :=
  { s with status := { s.status with busy := false, err := code } }

/-- A host write of `v` to `r` while BUSY = 1: ignored, PROTO_ERR is set, BUSY_WRITE is recorded (10_state.md R28, 60_exceptions.md R256). -/
def State.busyWrite (s : State) (r : Reg) (v : Word) : State :=
  { s with status := { s.status with protoErr := true } }.raise (.busyWrite r v)

/-- A command word `c` written to CMD: ignored while BUSY = 1, else the acceptance step `accepted` (44_round_network.md R220). -/
def State.issue (s : State) (c : Word) (accepted : State) : State :=
  if s.status.busy then s.busyWrite .cmd c else accepted

/-- A reserved command word: ILLEGAL_COMMAND at acceptance, and nothing else changes (30_encoding.md R74). -/
def State.illegalCommand (s : State) (c : Word) : State :=
  s.issue c ((s.complete .illegalCommand).raise (.illegalCommand c))

/-- ENCRYPT or DECRYPT with KEY_VALID = 0: NO_SCHEDULE at acceptance (44_round_network.md R221). -/
def State.noSchedule (s : State) : State := (s.complete .noSchedule).raise .noSchedule

/-- The faults that the spec raises for the KEY registers a key of `n` bytes consumes with mark 0 (60_exceptions.md R258;
43_key_schedule.md R172, R183: `raise Fault(UNWRITTEN_INPUT(KEY[i]))`). They are recorded beside the whole effect of the
acceptance, which uses the registers' contents. -/
def State.unwrittenKeys (s : State) (n : Nat) : List Fault :=
  ((List.finRange 8).filter fun i => decide (i.val < n / 4) && !s.keyW.get i).map fun i => .unwrittenInput (.key i)

/-- The faults that the spec raises for the DIN registers with mark 0 (60_exceptions.md R258; 44_round_network.md R212, R217:
`raise Fault(UNWRITTEN_INPUT(DIN[i]))`), recorded as those of the KEY registers are. -/
def State.unwrittenDin (s : State) : List Fault :=
  ((List.finRange 4).filter fun i => !s.dinW.get i).map fun i => .unwrittenInput (.din i)

/-- The word a host read of a register gives (10_state.md R20-R33): the constants, zero for CMD and KEY[i]. -/
def State.readWord (s : State) : Reg → Word
  | .blockSize => blockSizeValue
  | .keySize => keySizeValue
  | .cmd => 0#32
  | .status => s.status.word
  | .keyLen => s.keyLen
  | .key _ => 0#32
  | .din i => s.din.get i
  | .dout i => s.dout.get i

/-- The faults that the spec records for a host read of a register: DIN[i] with mark 0 (10_state.md R32; 60_exceptions.md R258),
DOUT[i] with DOUT_VALID = 0 (10_state.md R33; 60_exceptions.md R257). The read delivers the register's contents all the same. -/
def State.readFaults (s : State) : Reg → List Fault
  | .din i => if s.dinW.get i then [] else [.unwrittenInput (.din i)]
  | .dout i => if s.status.doutValid then [] else [.doutUnwritten i]
  | .blockSize | .keySize | .cmd | .status | .keyLen | .key _ => []

/-- An accepted host write to a register other than CMD (10_state.md R20, R30-R33, R39): KEY_LEN, KEY[i] and DIN[i]
store the word unless BUSY = 1 and mark KEY[i] and DIN[i] written; a write to a read-only register is ignored. -/
def State.writeReg (s : State) (r : Reg) (v : Word) : State :=
  match r with
  | .keyLen => if s.status.busy then s.busyWrite .keyLen v else { s with keyLen := v }
  | .key i =>
    if s.status.busy then s.busyWrite (.key i) v
    else { s with key := s.key.set i.val v i.isLt, keyW := s.keyW.set i.val true i.isLt }
  | .din i =>
    if s.status.busy then s.busyWrite (.din i) v
    else { s with din := s.din.set i v, dinW := s.dinW.set i.val true i.isLt }
  | .blockSize | .keySize | .status | .dout _ => s
  | .cmd => s

/-- A value stored under a number in a list whose numbers strictly rise: the list keeps that form. -/
def HostVars.set (x : Nat) (v : Word) : List (Nat × Word) → List (Nat × Word)
  | [] => [(x, v)]
  | (y, u) :: rest =>
    if x < y then (x, v) :: (y, u) :: rest
    else if x = y then (x, v) :: rest
    else (y, u) :: HostVars.set x v rest

/-- The value of a host variable, none if the host has not read into it. -/
def HostVars.get (x : Nat) : List (Nat × Word) → Option Word
  | [] => none
  | (y, u) :: rest => if x = y then some u else HostVars.get x rest

/-- The canonical form of the host's variables: numbers strictly rising. -/
def HostVars.wf : List (Nat × Word) → Bool
  | [] => true
  | [_] => true
  | (x, _) :: (y, v) :: rest => decide (x < y) && HostVars.wf ((y, v) :: rest)

/-- `$x <- v`. -/
def State.setVar (s : State) (x : Nat) (v : Word) : State := { s with vars := HostVars.set x v s.vars }

/-- A host read of `n` bytes at `off` into the host variable `x`: the data, zero for an access that is not performed, and
the faults recorded (20_memory.md R52, R53; 10_state.md R32, R33). -/
def State.busRead (s : State) (off : BitVec 8) (n : Nat) (x : Nat) : State :=
  match accessFaults off n, Reg.atOffset off with
  | [], some r => (s.setVar x (s.readWord r)).raiseAll (s.readFaults r)
  | fs, _ => (s.setVar x 0#32).raiseAll fs

/-- What reset leaves of any state (70_reset_and_hazards.md R280): the reset values, the host's own program and variables
untouched. It is no step of a run: a mid-run reset is not modelled (R293, log 19). -/
def State.afterReset (s : State) : State := { State.reset with host := s.host, vars := s.vars, primOut := s.primOut }

end Sys2Proof.Machine
end

