-- ==== Sys2Proof/Machine/Primitives.lean ====
section
/-! DEFINITION. The word primitives ROTL32, ROTR32, SHL32 and BSWAP32 (40_word_primitives.md). Each is a pure
function; taken as an instruction it puts its result on the primitives' output (log 8) and changes nothing else. -/

namespace Sys2Proof.Machine

/-- `rotl32(x, n)` for `0 < n < 32` (R100). -/
def rotl32 (x : Word) (n : Nat) : Word := (x <<< n) ||| (x >>> (32 - n))

/-- `rotr32(x, n)` for `0 < n < 32` (R101). -/
def rotr32 (x : Word) (n : Nat) : Word := (x >>> n) ||| (x <<< (32 - n))

/-- `x << n` (R102). -/
def shl32 (x : Word) (n : Nat) : Word := x <<< n

/-- `byteswap32(x)` (R103). -/
def byteswap32 (x : Word) : Word :=
  x.extractLsb' 0 8 ++ x.extractLsb' 8 8 ++ x.extractLsb' 16 8 ++ x.extractLsb' 24 8

/-- The result of a word primitive on its output, the model's own field. -/
def State.output (s : State) (w : Word) : State := { s with primOut := w }

/-- ROTL32 (R100): an amount outside 1..31 is refused (D33). -/
def execRotl32 (x : Word) (n : Nat) (s : State) : Host.Outcome State Fault Refusal :=
  if rotateAmountOk n then .next (s.output (rotl32 x n)) else .refused (.rotateAmount n)

/-- ROTR32 (R101): an amount outside 1..31 is refused (D33). -/
def execRotr32 (x : Word) (n : Nat) (s : State) : Host.Outcome State Fault Refusal :=
  if rotateAmountOk n then .next (s.output (rotr32 x n)) else .refused (.rotateAmount n)

/-- SHL32 (R102). -/
def execShl32 (x : Word) (n : Fin 32) (s : State) : Host.Outcome State Fault Refusal :=
  .next (s.output (shl32 x n.val))

/-- BSWAP32 (R103). -/
def execBswap32 (x : Word) (s : State) : Host.Outcome State Fault Refusal :=
  .next (s.output (byteswap32 x))

end Sys2Proof.Machine
end

