-- ==== Sys2Proof/Machine/Sbox.lean ====
section
/-! DEFINITION. The bit-sliced substitution layer (41_substitution.md): sixteen 4-bit tables, each applied to all 32 lanes. -/

namespace Sys2Proof.Machine

/-- The word whose bit `j` is `f j`. -/
def ofLanes : (n : Nat) → (Nat → Bool) → BitVec n
  | 0, _ => 0#0
  | n + 1, f => BitVec.cons (f n) (ofLanes n f)

/-- `nib_j(a,b,c,d) = a[j] + 2*b[j] + 4*c[j] + 8*d[j]` (00_scope.md R10). -/
def nib (q : Quad) (j : Nat) : Nat :=
  (q.w0.getLsbD j).toNat + 2 * (q.w1.getLsbD j).toNat + 4 * (q.w2.getLsbD j).toNat + 8 * (q.w3.getLsbD j).toNat

/-- `Slice(T, Q)`: in every lane the nibble of `Q` through the table, its bits 0..3 into the four result words (R120). -/
def slice (t : List Nat) (q : Quad) : Quad where
  w0 := ofLanes 32 fun j => (t.getD (nib q j) 0).testBit 0
  w1 := ofLanes 32 fun j => (t.getD (nib q j) 0).testBit 1
  w2 := ofLanes 32 fun j => (t.getD (nib q j) 0).testBit 2
  w3 := ofLanes 32 fun j => (t.getD (nib q j) 0).testBit 3

/-- `T_S0` (R122). -/
def tableS0 : List Nat := [3, 8, 15, 1, 10, 6, 5, 11, 14, 13, 4, 2, 7, 0, 9, 12]

/-- `T_S1` (R123). -/
def tableS1 : List Nat := [15, 12, 2, 7, 9, 0, 5, 10, 1, 11, 14, 8, 6, 13, 3, 4]

/-- `T_S2` (R124). -/
def tableS2 : List Nat := [8, 6, 7, 9, 3, 12, 10, 15, 13, 1, 14, 4, 0, 11, 5, 2]

/-- `T_S3` (R125). -/
def tableS3 : List Nat := [0, 15, 11, 8, 12, 9, 6, 3, 13, 1, 2, 4, 10, 7, 5, 14]

/-- `T_S4` (R126). -/
def tableS4 : List Nat := [1, 15, 8, 3, 12, 0, 11, 6, 2, 5, 4, 10, 9, 14, 7, 13]

/-- `T_S5` (R127). -/
def tableS5 : List Nat := [15, 5, 2, 11, 4, 10, 9, 12, 0, 3, 14, 8, 13, 6, 7, 1]

/-- `T_S6` (R128). -/
def tableS6 : List Nat := [7, 2, 12, 5, 8, 4, 6, 11, 14, 9, 1, 15, 13, 3, 10, 0]

/-- `T_S7` (R129). -/
def tableS7 : List Nat := [1, 13, 15, 0, 14, 8, 2, 11, 7, 4, 12, 10, 9, 3, 5, 6]

/-- `T_I0` (R130). -/
def tableI0 : List Nat := [13, 3, 11, 0, 10, 6, 5, 12, 1, 14, 4, 7, 15, 9, 8, 2]

/-- `T_I1` (R131). -/
def tableI1 : List Nat := [5, 8, 2, 14, 15, 6, 12, 3, 11, 4, 7, 9, 1, 13, 10, 0]

/-- `T_I2` (R132). -/
def tableI2 : List Nat := [12, 9, 15, 4, 11, 14, 1, 2, 0, 3, 6, 13, 5, 8, 10, 7]

/-- `T_I3` (R133). -/
def tableI3 : List Nat := [0, 9, 10, 7, 11, 14, 6, 13, 3, 5, 12, 2, 4, 8, 15, 1]

/-- `T_I4` (R134). -/
def tableI4 : List Nat := [5, 0, 8, 3, 10, 9, 7, 14, 2, 12, 11, 6, 4, 15, 13, 1]

/-- `T_I5` (R135). -/
def tableI5 : List Nat := [8, 15, 2, 9, 4, 1, 13, 14, 11, 6, 5, 3, 7, 12, 10, 0]

/-- `T_I6` (R136). -/
def tableI6 : List Nat := [15, 10, 1, 13, 5, 3, 6, 0, 4, 9, 14, 7, 2, 12, 8, 11]

/-- `T_I7` (R137). -/
def tableI7 : List Nat := [3, 0, 6, 13, 9, 14, 15, 8, 5, 12, 11, 7, 10, 1, 4, 2]

/-- forward S-box 0 (R122). -/
def sboxS0 (q : Quad) : Quad := slice tableS0 q

/-- forward S-box 1 (R123). -/
def sboxS1 (q : Quad) : Quad := slice tableS1 q

/-- forward S-box 2 (R124). -/
def sboxS2 (q : Quad) : Quad := slice tableS2 q

/-- forward S-box 3 (R125). -/
def sboxS3 (q : Quad) : Quad := slice tableS3 q

/-- forward S-box 4 (R126). -/
def sboxS4 (q : Quad) : Quad := slice tableS4 q

/-- forward S-box 5 (R127). -/
def sboxS5 (q : Quad) : Quad := slice tableS5 q

/-- forward S-box 6 (R128). -/
def sboxS6 (q : Quad) : Quad := slice tableS6 q

/-- forward S-box 7 (R129). -/
def sboxS7 (q : Quad) : Quad := slice tableS7 q

/-- inverse S-box 0 (R130). -/
def sboxI0 (q : Quad) : Quad := slice tableI0 q

/-- inverse S-box 1 (R131). -/
def sboxI1 (q : Quad) : Quad := slice tableI1 q

/-- inverse S-box 2 (R132). -/
def sboxI2 (q : Quad) : Quad := slice tableI2 q

/-- inverse S-box 3 (R133). -/
def sboxI3 (q : Quad) : Quad := slice tableI3 q

/-- inverse S-box 4 (R134). -/
def sboxI4 (q : Quad) : Quad := slice tableI4 q

/-- inverse S-box 5 (R135). -/
def sboxI5 (q : Quad) : Quad := slice tableI5 q

/-- inverse S-box 6 (R136). -/
def sboxI6 (q : Quad) : Quad := slice tableI6 q

/-- inverse S-box 7 (R137). -/
def sboxI7 (q : Quad) : Quad := slice tableI7 q

/-- `S[s]`, the forward S-box of number `s` (00_scope.md R12, 41_substitution.md R139). -/
def sbox (s : Fin 8) : Quad → Quad :=
  match s with
  | 0 => sboxS0
  | 1 => sboxS1
  | 2 => sboxS2
  | 3 => sboxS3
  | 4 => sboxS4
  | 5 => sboxS5
  | 6 => sboxS6
  | 7 => sboxS7

/-- `I[s]`, the inverse S-box of number `s` (00_scope.md R12, 41_substitution.md R139). -/
def invSbox (s : Fin 8) : Quad → Quad :=
  match s with
  | 0 => sboxI0
  | 1 => sboxI1
  | 2 => sboxI2
  | 3 => sboxI3
  | 4 => sboxI4
  | 5 => sboxI5
  | 6 => sboxI6
  | 7 => sboxI7

/-- The operation that applies forward S-box `s`. -/
def fwdInstr (s : Fin 8) : Instr :=
  match s with
  | 0 => .s0
  | 1 => .s1
  | 2 => .s2
  | 3 => .s3
  | 4 => .s4
  | 5 => .s5
  | 6 => .s6
  | 7 => .s7

/-- The operation that applies inverse S-box `s`. -/
def invInstr (s : Fin 8) : Instr :=
  match s with
  | 0 => .i0
  | 1 => .i1
  | 2 => .i2
  | 3 => .i3
  | 4 => .i4
  | 5 => .i5
  | 6 => .i6
  | 7 => .i7

/-- S0 (R122; bank movement 44_round_network.md R204). -/
def execS0 (s : State) : Host.Outcome State Fault Refusal := .next (s.across sboxS0)

/-- S1 (R123; bank movement 44_round_network.md R204). -/
def execS1 (s : State) : Host.Outcome State Fault Refusal := .next (s.across sboxS1)

/-- S2 (R124; bank movement 44_round_network.md R204). -/
def execS2 (s : State) : Host.Outcome State Fault Refusal := .next (s.across sboxS2)

/-- S3 (R125; bank movement 44_round_network.md R204). -/
def execS3 (s : State) : Host.Outcome State Fault Refusal := .next (s.across sboxS3)

/-- S4 (R126; bank movement 44_round_network.md R204). -/
def execS4 (s : State) : Host.Outcome State Fault Refusal := .next (s.across sboxS4)

/-- S5 (R127; bank movement 44_round_network.md R204). -/
def execS5 (s : State) : Host.Outcome State Fault Refusal := .next (s.across sboxS5)

/-- S6 (R128; bank movement 44_round_network.md R204). -/
def execS6 (s : State) : Host.Outcome State Fault Refusal := .next (s.across sboxS6)

/-- S7 (R129; bank movement 44_round_network.md R204). -/
def execS7 (s : State) : Host.Outcome State Fault Refusal := .next (s.across sboxS7)

/-- I0 (R130; bank movement 44_round_network.md R204). -/
def execI0 (s : State) : Host.Outcome State Fault Refusal := .next (s.across sboxI0)

/-- I1 (R131; bank movement 44_round_network.md R204). -/
def execI1 (s : State) : Host.Outcome State Fault Refusal := .next (s.across sboxI1)

/-- I2 (R132; bank movement 44_round_network.md R204). -/
def execI2 (s : State) : Host.Outcome State Fault Refusal := .next (s.across sboxI2)

/-- I3 (R133; bank movement 44_round_network.md R204). -/
def execI3 (s : State) : Host.Outcome State Fault Refusal := .next (s.across sboxI3)

/-- I4 (R134; bank movement 44_round_network.md R204). -/
def execI4 (s : State) : Host.Outcome State Fault Refusal := .next (s.across sboxI4)

/-- I5 (R135; bank movement 44_round_network.md R204). -/
def execI5 (s : State) : Host.Outcome State Fault Refusal := .next (s.across sboxI5)

/-- I6 (R136; bank movement 44_round_network.md R204). -/
def execI6 (s : State) : Host.Outcome State Fault Refusal := .next (s.across sboxI6)

/-- I7 (R137; bank movement 44_round_network.md R204). -/
def execI7 (s : State) : Host.Outcome State Fault Refusal := .next (s.across sboxI7)

end Sys2Proof.Machine
end

