-- ==== Sys2Proof/Machine/KeySchedule.lean ====
section
/-! DEFINITION. The key-schedule expander: KS_PAD, KS_STEP, KS_SBOX and the command SET_KEY (43_key_schedule.md). -/

namespace Sys2Proof.Machine

/-- `KS_PAD(n, KEY)` for a legal length `n`: the key words, zeros, and the pad bit after the last key bit (R172). -/
def padWords (n : Nat) (key : Vector Word 8) : Vector Word 8 :=
  let w := Vector.ofFn fun i : Fin 8 => if i.val < n / 4 then key.get i else 0#32
  if h : n < 32 then
    let bitlen := 8 * n
    w.set (bitlen / 32) (w[bitlen / 32]'(by omega) ||| (1#32 <<< (bitlen % 32))) (by omega)
  else w

/-- The word the recurrence computes at step `i` from the window `p` (R174, R179). -/
def nextPrekey (p : Vector Word 8) (i : Nat) : Word :=
  rotl32 (p[0] ^^^ p[3] ^^^ p[5] ^^^ p[7] ^^^ phi ^^^ BitVec.ofNat 32 i) ksRot

/-- The window one step on: `PW[0..6] = PW[1..7]`, `PW[7] = t` (R179). -/
def shiftWindow (p : Vector Word 8) (t : Word) : Vector Word 8 := #v[p[1], p[2], p[3], p[4], p[5], p[6], p[7], t]

/-- KS_PAD (R172): PW gets the padded key of KEY_LEN bytes, and an unwritten KEY register that it reads is a fault (R258).
KEY_LEN outside its domain is refused. -/
def execKsPad (s : State) : Host.Outcome State Fault Refusal :=
  match validate s.keyLen with
  | some _ => .refused (.padLength s.keyLen)
  | none =>
    .next { s.raiseAll (s.unwrittenKeys s.keyLen.toNat) with pw := padWords s.keyLen.toNat s.key }

/-- KS_STEP (R179): the window shifts in the next prekey word and STEP counts. STEP = 132 is outside its domain. -/
def execKsStep (s : State) : Host.Outcome State Fault Refusal :=
  if h : s.stepIdx.val < 132 then
    .next { s with
      pw := shiftWindow s.pw (nextPrekey s.pw s.stepIdx.val)
      stepIdx := ⟨s.stepIdx.val + 1, by omega⟩ }
  else .refused .stepExhausted

/-- KS_SBOX (R180): `RK[k] <- S[(3 - k) mod 8]({PW[4], PW[5], PW[6], PW[7]})`. -/
def execKsSbox (k : Fin 33) (s : State) : Host.Outcome State Fault Refusal :=
  .next { s with rk := s.rk.set k.val (sbox (groupBox k) s.pwGroup) k.isLt }

/-- The acceptance step of SET_KEY with BUSY = 0 (R183): a failing length completes at once and changes nothing else (R184). -/
def acceptSetKey (s : State) : State :=
  match validate s.keyLen with
  | some e => s.complete e
  | none =>
    let t := s.raiseAll (s.unwrittenKeys s.keyLen.toNat)
    { t with
      status := { t.status with keyValid := false, busy := true }
      opc := 0x1#4
      pw := padWords s.keyLen.toNat s.key
      stepIdx := 0
      phase := .ksStep }

/-- SET_KEY (R183): its acceptance step, or the ignored write while BUSY = 1. -/
def execSetKey (s : State) : Host.Outcome State Fault Refusal :=
  .next (s.issue (commandWord 0x1#4) (acceptSetKey s))

end Sys2Proof.Machine
end

