-- ==== Sys2Proof/Machine/Controller.lean ====
section
/-! DEFINITION. The round-network controller: the operation each phase takes, and the sequencing after it
(44_round_network.md R207, R215, R219; 43_key_schedule.md R182). -/

namespace Sys2Proof.Machine

/-- The group index `k = STEP/4 - 1` of a KS_SBOX micro-step (43_key_schedule.md R180). -/
def State.group (s : State) : Fin 33 := Fin.ofNat 33 (s.stepIdx.val / 4 - 1)

/-- The datapath operation of the core's next micro-step; none in IDLE (44_round_network.md R219). -/
def State.microOp (s : State) : Option Instr :=
  match s.phase with
  | .idle => none
  | .ksStep => some .ksStep
  | .ksSbox => some (.ksSbox s.group)
  | .encMix => some (.keymix s.rnd)
  | .encSbox => some (fwdInstr (roundBox s.rnd))
  | .encLt => some .lt
  | .encFinal => some (.keymix lastKey)
  | .decMix32 => some (.keymix lastKey)
  | .decIlt => some .ilt
  | .decIsbox => some (invInstr (roundBox s.rnd))
  | .decMix => some (.keymix s.rnd)

/-- The end of a successful ENCRYPT or DECRYPT, one step: DOUT from bank ACT, DOUT_VALID, ERR, BUSY and PHASE
(44_round_network.md R207, R215). -/
def State.finishBlock (s : State) : State :=
  { s with
    dout := s.active
    status := { s.status with doutValid := true }
    phase := .idle }.complete .none

/-- The end of a successful SET_KEY: KEY_VALID, ERR, BUSY and PHASE (43_key_schedule.md R182, R185). -/
def State.finishKey (s : State) : State :=
  { s with
    status := { s.status with keyValid := true }
    phase := .idle }.complete .none

/-- What the controller does in the same micro-step after the operation of the phase (44_round_network.md R207, R215,
R219). `RND + 1` and `RND - 1` are taken only where RND < 31 and RND > 0. -/
def State.sequence (s : State) : State :=
  match s.phase with
  | .idle => s
  | .ksStep => { s with phase := if s.stepIdx.val % 4 = 0 then .ksSbox else .ksStep }
  | .ksSbox => if s.group = lastKey then s.finishKey else { s with phase := .ksStep }
  | .encMix => { s with phase := .encSbox }
  | .encSbox => { s with phase := if s.rnd.val < 31 then .encLt else .encFinal }
  | .encLt => { s with rnd := Fin.ofNat 33 (s.rnd.val + 1), phase := .encMix }
  | .encFinal => s.finishBlock
  | .decMix32 => { s with phase := .decIsbox }
  | .decIlt => { s with phase := .decIsbox }
  | .decIsbox => { s with phase := .decMix }
  | .decMix =>
    if s.rnd.val = 0 then s.finishBlock
    else { s with rnd := Fin.ofNat 33 (s.rnd.val - 1), phase := .decIlt }

/-- One of the micro-steps the core takes before the next host line is taken off the line's gap (log 1). -/
def State.spendGap (s : State) : State :=
  match s.host with
  | [] => s
  | l :: rest => { s with host := { l with gap := l.gap - 1 } :: rest }

end Sys2Proof.Machine
end

