-- ==== Sys2Proof/Machine/Linear.lean ====
section
/-! DEFINITION. The linear diffusion mixer: LT and ILT (42_linear_transform.md). -/

namespace Sys2Proof.Machine

/-- `LT(a, b, c, d)`, a sequence of assignments (R150). -/
def lt (q : Quad) : Quad :=
  let a := rotl32 q.w0 13
  let c := rotl32 q.w2 3
  let b := q.w1 ^^^ a ^^^ c
  let d := q.w3 ^^^ c ^^^ shl32 a 3
  let b := rotl32 b 1
  let d := rotl32 d 7
  let a := a ^^^ b ^^^ d
  let c := c ^^^ d ^^^ shl32 b 7
  let a := rotl32 a 5
  let c := rotl32 c 22
  ⟨a, b, c, d⟩

/-- `ILT(a, b, c, d)`, the steps of LT undone in reverse order (R151). -/
def ilt (q : Quad) : Quad :=
  let c := rotr32 q.w2 22
  let a := rotr32 q.w0 5
  let c := c ^^^ q.w3 ^^^ shl32 q.w1 7
  let a := a ^^^ q.w1 ^^^ q.w3
  let d := rotr32 q.w3 7
  let b := rotr32 q.w1 1
  let d := d ^^^ c ^^^ shl32 a 3
  let b := b ^^^ a ^^^ c
  let c := rotr32 c 3
  let a := rotr32 a 13
  ⟨a, b, c, d⟩

/-- LT on bank ACT in place (R150; 44_round_network.md R204). -/
def execLt (s : State) : Host.Outcome State Fault Refusal := .next (s.inPlace lt)

/-- ILT on bank ACT in place (R151; 44_round_network.md R204). -/
def execIlt (s : State) : Host.Outcome State Fault Refusal := .next (s.inPlace ilt)

end Sys2Proof.Machine
end

