-- ==== Sys2Proof/Machine/RoundNetwork.lean ====
section
/-! DEFINITION. KEYMIX and the commands ENCRYPT, DECRYPT and NOP (44_round_network.md). -/

namespace Sys2Proof.Machine

/-- `KEYMIX(Q, k)` under a round-key store (R200). -/
def keymix (rk : Vector Quad 33) (k : Fin 33) (q : Quad) : Quad := q.xor (rk.get k)

/-- KEYMIX on bank ACT in place (R200, R204). -/
def execKeymix (k : Fin 33) (s : State) : Host.Outcome State Fault Refusal := .next (s.inPlace (keymix s.rk k))

/-- The acceptance step of ENCRYPT or DECRYPT with BUSY = 0 (R212, R217): DIN into bank A, ACT = 0, and the command's
opcode, first round index and first phase. Without a schedule it completes with NO_SCHEDULE (R221). -/
def acceptBlock (op : BitVec 4) (firstRound : Fin 33) (firstPhase : Phase) (s : State) : State :=
  if s.status.keyValid then
    let t := s.raiseAll s.unwrittenDin
    { t with
      status := { t.status with busy := true }
      opc := op
      bankA := s.din
      act := .a
      rnd := firstRound
      phase := firstPhase }
  else s.noSchedule

/-- ENCRYPT (R212). -/
def execEncrypt (s : State) : Host.Outcome State Fault Refusal :=
  .next (s.issue (commandWord 0x2#4) (acceptBlock 0x2#4 0 .encMix s))

/-- DECRYPT (R217). -/
def execDecrypt (s : State) : Host.Outcome State Fault Refusal :=
  .next (s.issue (commandWord 0x3#4) (acceptBlock 0x3#4 31 .decMix32 s))

/-- NOP (R218). -/
def execNop (s : State) : Host.Outcome State Fault Refusal :=
  .next (s.issue (commandWord 0x0#4) (s.complete .none))

end Sys2Proof.Machine
end

