-- ==== Sys2Proof/Machine/Dispatch.lean ====
section
/-! DEFINITION. One arm per operation, each one call of its meaning. -/

namespace Sys2Proof.Machine

def exec (i : Instr) (s : State) : Host.Outcome State Fault Refusal :=
  match i with
  | .nop => Sys2Proof.Machine.execNop s
  | .setKey => Sys2Proof.Machine.execSetKey s
  | .encrypt => Sys2Proof.Machine.execEncrypt s
  | .decrypt => Sys2Proof.Machine.execDecrypt s
  | .rotl32 x n => Sys2Proof.Machine.execRotl32 x n s
  | .rotr32 x n => Sys2Proof.Machine.execRotr32 x n s
  | .shl32 x n => Sys2Proof.Machine.execShl32 x n s
  | .bswap32 x => Sys2Proof.Machine.execBswap32 x s
  | .s0 => Sys2Proof.Machine.execS0 s
  | .s1 => Sys2Proof.Machine.execS1 s
  | .s2 => Sys2Proof.Machine.execS2 s
  | .s3 => Sys2Proof.Machine.execS3 s
  | .s4 => Sys2Proof.Machine.execS4 s
  | .s5 => Sys2Proof.Machine.execS5 s
  | .s6 => Sys2Proof.Machine.execS6 s
  | .s7 => Sys2Proof.Machine.execS7 s
  | .i0 => Sys2Proof.Machine.execI0 s
  | .i1 => Sys2Proof.Machine.execI1 s
  | .i2 => Sys2Proof.Machine.execI2 s
  | .i3 => Sys2Proof.Machine.execI3 s
  | .i4 => Sys2Proof.Machine.execI4 s
  | .i5 => Sys2Proof.Machine.execI5 s
  | .i6 => Sys2Proof.Machine.execI6 s
  | .i7 => Sys2Proof.Machine.execI7 s
  | .lt => Sys2Proof.Machine.execLt s
  | .ilt => Sys2Proof.Machine.execIlt s
  | .keymix k => Sys2Proof.Machine.execKeymix k s
  | .ksPad => Sys2Proof.Machine.execKsPad s
  | .ksStep => Sys2Proof.Machine.execKsStep s
  | .ksSbox k => Sys2Proof.Machine.execKsSbox k s

end Sys2Proof.Machine
end

