-- ==== Sys2Proof/Machine/Bus.lean ====
section
/-! DEFINITION. The two agents: the host's access to the window, and the core's micro-step (20_memory.md R59;
44_round_network.md R219, R220; 30_encoding.md R77, R78), and which of them moves next. -/

namespace Sys2Proof.Machine

/-- A host write of a value to CMD (44_round_network.md R220): the decoded command's acceptance step, or the reserved
word's; each ignores the write while BUSY = 1. -/
def State.writeCmd (s : State) (c : Word) : Host.Outcome State Fault Refusal :=
  match decodeWord c with
  | .instr i => exec i s
  | .reject _ => .next (s.illegalCommand c)

/-- A host write of `n` bytes at `off` (20_memory.md R52, R53, R58): an access that is not performed only records its faults. -/
def State.busWrite (s : State) (off : BitVec 8) (n : Nat) (v : Word) : Host.Outcome State Fault Refusal :=
  match accessFaults off n, Reg.atOffset off with
  | [], some .cmd => s.writeCmd v
  | [], some r => .next (s.writeReg r v)
  | fs, _ => .next (s.raiseAll fs)

/-- What a host line does (30_encoding.md R77, R78). A `wait` that polls BUSY = 1 stays the next line. -/
def State.hostOp (s : State) (l : HostLine) (rest : List HostLine) : Host.Outcome State Fault Refusal :=
  match l.op with
  | .write off n v => { s with host := rest }.busWrite off n v
  | .read off n x => .next ({ s with host := rest }.busRead off n x)
  | .wait x => .next (if s.status.busy then s else { s with host := rest }.setVar x s.status.word)

/-- The host's step: its next line. -/
def State.hostStep (s : State) : Host.Outcome State Fault Refusal :=
  match s.host with
  | [] => .next s
  | l :: rest => s.hostOp l rest

/-- The core's step (44_round_network.md R219): the operation of the phase and the sequencing after it, one indivisible
micro-step; none in IDLE. -/
def State.coreStep (s : State) : Host.Outcome State Fault Refusal :=
  match s.microOp with
  | none => .next s
  | some i =>
    match exec i s with
    | .next t => .next t.sequence.spendGap
    | .fault f => .fault f
    | .refused r => .refused r

/-- Which agent moves. -/
inductive Mover where
  | host
  | core
  | neither
deriving DecidableEq, Repr

/-- The core moves while the host has no line, while the next line's gap is not spent, and while the next line is a `wait`
and BUSY = 1 (30_encoding.md R78, 44_round_network.md R222); an IDLE core has no step, so the host moves (R219). -/
def State.mover (s : State) : Mover :=
  match s.phase, s.host with
  | .idle, [] => .neither
  | .idle, _ :: _ => .host
  | _, [] => .core
  | _, ⟨_ + 1, _⟩ :: _ => .core
  | _, ⟨0, .wait _⟩ :: _ => if s.status.busy then .core else .host
  | _, ⟨0, .write _ _ _⟩ :: _ => .host
  | _, ⟨0, .read _ _ _⟩ :: _ => .host

/-- The step of the agent that moves; where neither can, every piece of state survives (60_exceptions.md R269). -/
def State.agentStep (s : State) : Host.Outcome State Fault Refusal :=
  match s.mover with
  | .host => s.hostStep
  | .core => s.coreStep
  | .neither => .next s

/-- A recorded fault leaves the model without a further step; the step names the first one (60_exceptions.md R255). -/
def State.guardedStep (s : State) : Host.Outcome State Fault Refusal :=
  match s.faults with
  | [] => s.agentStep
  | f :: _ => .fault f

/-- `s` with the host write of a table word to CMD as the host's next line, before the core's next micro-step. -/
def State.placeCommand (s : State) (nbits w : Nat) : State :=
  { s with host := ⟨0, .write Reg.cmd.offset 4 (tableWord nbits w)⟩ :: s.host }

end Sys2Proof.Machine
end

