-- ==== Sys2Proof/Machine/Step.lean ====
section
/-! DEFINITION. One step of SERPENT_CORE and its host, and how the host places a command. -/

namespace Sys2Proof.Machine

/-- One step of the two agents (20_memory.md R59). -/
def step (s : State) : Host.Outcome State Fault Refusal := s.guardedStep

/-- `s` whose next step is the host write of the command word `w` to CMD (30_encoding.md R70; log 2). -/
def State.withFetchWord (s : State) (nbits w : Nat) : State := s.placeCommand nbits w

end Sys2Proof.Machine
end

