-- ==== Sys2Proof/Config.lean ====
section
/-! DEFINITION. The OPEN parameters of the platform and of an implementation (00_scope.md R6; 92_eei_decisions.md D3, D17, D18).
Each is a constant without a body, so that no proof can use a value of it. -/

namespace Sys2Proof

/-- `RESET_STYLE` (R6, 70_reset_and_hazards.md R280): no rule depends on it. -/
inductive ResetStyle where
  | synchronous
  | asynchronous
deriving DecidableEq, Repr, Inhabited

/-- The page of the register window; `BASE` is a multiple of 0x100 (20_memory.md R50). -/
opaque Config.basePage : Nat

/-- `BASE`, the byte address of the register window (20_memory.md R50). -/
def Config.base : Nat := 0x100 * Config.basePage

/-- `T_ACCEPT`, clock cycles of an acceptance step (R6): no rule depends on it. -/
opaque Config.tAccept : Nat

/-- `T_KS`, clock cycles of a key-schedule micro-step (R6): no rule depends on it. -/
opaque Config.tKs : Nat

/-- `T_ROUND`, clock cycles of a round-network micro-step (R6): no rule depends on it. -/
opaque Config.tRound : Nat

/-- `RESET_STYLE` of the implementation (R6): no rule depends on it. -/
opaque Config.resetStyle : ResetStyle

/-- The minimum time reset is held (R6): no rule depends on it. -/
opaque Config.resetHold : Nat

end Sys2Proof
end

