-- ==== Sys2Proof/Machine/HostProgram.lean ====
section
/-! DEFINITION. Host programs: the bus primitives at addresses (00_scope.md R9, 20_memory.md R50), the lines of
30_encoding.md R77 and the expansions of R78. A line written here has gap 0. -/

namespace Sys2Proof.Machine

/-- `off = addr - BASE` for an address of the window's 0x100 bytes; how another address is routed is outside the spec (20_memory.md R50). -/
def offsetOf (addr : Nat) : Option (BitVec 8) :=
  if Config.base ≤ addr ∧ addr < Config.base + 0x100 then some (BitVec.ofNat 8 (addr - Config.base)) else none

/-- `MemWrite(addr, n, v)` (00_scope.md R9), as the bus access it is to the window. -/
def memWrite (addr n : Nat) (v : Word) : Option HostOp := (offsetOf addr).map fun off => .write off n v

/-- `MemRead(addr, n)` into `$x` (00_scope.md R9), as the bus access it is to the window. -/
def memRead (addr n x : Nat) : Option HostOp := (offsetOf addr).map fun off => .read off n x

/-- `wr NAME, v` (R77). -/
def wr (r : Reg) (v : Word) : HostLine := ⟨0, .write r.offset 4 v⟩

/-- `rd NAME -> $x` (R77). -/
def rd (r : Reg) (x : Nat) : HostLine := ⟨0, .read r.offset 4 x⟩

/-- `cmd OP` (R77). -/
def cmd (op : BitVec 4) : HostLine := wr .cmd (commandWord op)

/-- `wait` with its poll variable (R78). -/
def wait (x : Nat) : HostLine := ⟨0, .wait x⟩

/-- `setkey kb` (R78). KEY_LEN takes the length modulo 2^32: of a sequence of 2^32 or more bytes, whose length no 32-bit write
can carry (R77), this is the model's own DESIGN CHOICE (log 24). -/
def setkey (kb : List Byte) (x : Nat) : List HostLine :=
  wr .keyLen (BitVec.ofNat 32 kb.length)
    :: ((List.finRange 8).filter fun i => decide (i.val < min kb.length 32 / 4)).map (fun i => wr (.key i) (le32 kb i.val))
    ++ [cmd 0x1#4, wait x]

/-- `putblock pb` (R78). -/
def putblock (pb : List Byte) : List HostLine := (List.finRange 4).map fun i => wr (.din i) (le32 pb i.val)

/-- `getblock -> $o`, into the variables `o .. o+3` (R78). -/
def getblock (o : Nat) : List HostLine := (List.finRange 4).map fun i => rd (.dout i) (o + i.val)

/-- `encrypt pb -> $o` (R78). -/
def encryptLines (pb : List Byte) (x o : Nat) : List HostLine := putblock pb ++ [cmd 0x2#4, wait x] ++ getblock o

/-- `decrypt cb -> $o` (R78). -/
def decryptLines (cb : List Byte) (x o : Nat) : List HostLine := putblock cb ++ [cmd 0x3#4, wait x] ++ getblock o

/-- The block a byte sequence is packed into (20_memory.md R55). -/
def packBlock (pb : List Byte) : Quad := ⟨le32 pb 0, le32 pb 1, le32 pb 2, le32 pb 3⟩

/-- The byte sequence of an output block (20_memory.md R55). -/
def blockBytes (q : Quad) : List Byte := bytesLe q.w0 ++ bytesLe q.w1 ++ bytesLe q.w2 ++ bytesLe q.w3

end Sys2Proof.Machine
end

