-- ==== Sys2Proof/Machine/Cipher.lean ====
section
/-! DEFINITION. The normative functions of the cipher, apart from the controller that realises them:
the prekey sequence, the round keys, `Schedule`, `Encrypt` and `Decrypt`
(43_key_schedule.md R170-R177; 44_round_network.md R201, R208). -/

namespace Sys2Proof.Machine

/-- `prekey[0 .. i+7]`: the padded key and `i` words of the recurrence, each read from the list so far (R174). -/
def prekeys (w : Vector Word 8) : Nat → List Word
  | 0 => w.toList
  | i + 1 =>
    let p := prekeys w i
    p ++ [rotl32 (p.getD i 0#32 ^^^ p.getD (i + 3) 0#32 ^^^ p.getD (i + 5) 0#32 ^^^ p.getD (i + 7) 0#32
      ^^^ phi ^^^ BitVec.ofNat 32 i) ksRot]

/-- `RK[k] = S[(3 - k) mod 8](prekey[8+4k], ..., prekey[11+4k])` (R177). -/
def roundKey (w : Vector Word 8) (k : Fin 33) : Quad :=
  let p := prekeys w 132
  sbox (groupBox k)
    ⟨p.getD (8 + 4 * k.val) 0#32, p.getD (9 + 4 * k.val) 0#32, p.getD (10 + 4 * k.val) 0#32, p.getD (11 + 4 * k.val) 0#32⟩

/-- The 33 round keys of a padded key (R177). -/
def roundKeys (w : Vector Word 8) : Vector Quad 33 := Vector.ofFn (roundKey w)

/-- What `Schedule` answers (R170). -/
inductive Schedule where
  | error (e : ErrCode)
  | keys (rk : Vector Quad 33)
deriving DecidableEq, Repr

/-- `Schedule` of the key presented as KEY_LEN and KEY (R170). -/
def scheduleOf (n : Word) (key : Vector Word 8) : Schedule :=
  match validate n with
  | some e => .error e
  | none => .keys (roundKeys (padWords n.toNat key))

/-- The working state of `Encrypt(P)` before round `r`, counted up from 0 (R201). -/
def encryptRounds (rk : Vector Quad 33) (p : Quad) : Nat → Quad
  | 0 => p
  | r + 1 =>
    let x := sbox (Fin.ofNat 8 (r % 8)) (keymix rk (Fin.ofNat 33 r) (encryptRounds rk p r))
    if r < 31 then lt x else x

/-- `Encrypt(P)` (R201). -/
def encryptBlock (rk : Vector Quad 33) (p : Quad) : Quad := keymix rk 32 (encryptRounds rk p 32)

/-- The working state of `Decrypt(C)` after `m` rounds, round `31 - m` being the next (R208). -/
def decryptRounds (rk : Vector Quad 33) (c : Quad) : Nat → Quad
  | 0 => keymix rk 32 c
  | m + 1 =>
    let r := 31 - m
    let x := decryptRounds rk c m
    let y := if r < 31 then ilt x else x
    keymix rk (Fin.ofNat 33 r) (invSbox (Fin.ofNat 8 (r % 8)) y)

/-- `Decrypt(C)` (R208). -/
def decryptBlock (rk : Vector Quad 33) (c : Quad) : Quad := decryptRounds rk c 32

end Sys2Proof.Machine
end

