-- ==== Sys2Proof/Safety.lean ====
section
/-! DEFINITION. What counts as a final run, the invariants of controller and fault record, the meaning of the prekey
window, and which states no host can tell apart. -/

namespace Sys2Proof.Machine

/-- A run is final: the core is IDLE, FAULTS is empty, the host program is at its end (70_reset_and_hazards.md R292). -/
def State.final (s : State) : Bool := decide (s.phase = .idle) && decide (s.faults = []) && decide (s.host = [])

/-- The bank an encryption round of number `r` reads: A when `r` is even (44_round_network.md R204). -/
def encryptBank (r : Nat) : Bank := if r % 2 = 0 then .a else .b

/-- The bank a decryption round of number `r` reads: A when `r` is odd (44_round_network.md R204). -/
def decryptBank (r : Nat) : Bank := if r % 2 = 1 then .a else .b

/-- What the controller's fields are in each phase (10_state.md R36; 43_key_schedule.md R179, R180, R185;
44_round_network.md R204, R207, R215). -/
abbrev State.PhaseInv (s : State) : Prop :=
  match s.phase with
  | .idle => True
  | .ksStep => s.status.keyValid = false ∧ s.opc = 0x1#4 ∧ s.stepIdx.val ≤ 131
  | .ksSbox => s.status.keyValid = false ∧ s.opc = 0x1#4 ∧ s.stepIdx.val % 4 = 0 ∧ 4 ≤ s.stepIdx.val
  | .encMix => s.status.keyValid = true ∧ s.opc = 0x2#4 ∧ s.rnd.val ≤ 31 ∧ s.act = encryptBank s.rnd.val
  | .encSbox => s.status.keyValid = true ∧ s.opc = 0x2#4 ∧ s.rnd.val ≤ 31 ∧ s.act = encryptBank s.rnd.val
  | .encLt => s.status.keyValid = true ∧ s.opc = 0x2#4 ∧ s.rnd.val ≤ 30 ∧ s.act = (encryptBank s.rnd.val).other
  | .encFinal => s.status.keyValid = true ∧ s.opc = 0x2#4 ∧ s.rnd.val = 31 ∧ s.act = .a
  | .decMix32 => s.status.keyValid = true ∧ s.opc = 0x3#4 ∧ s.rnd.val = 31 ∧ s.act = .a
  | .decIlt => s.status.keyValid = true ∧ s.opc = 0x3#4 ∧ s.rnd.val ≤ 30 ∧ s.act = decryptBank s.rnd.val
  | .decIsbox => s.status.keyValid = true ∧ s.opc = 0x3#4 ∧ s.rnd.val ≤ 31 ∧ s.act = decryptBank s.rnd.val
  | .decMix => s.status.keyValid = true ∧ s.opc = 0x3#4 ∧ s.rnd.val ≤ 31 ∧ s.act = (decryptBank s.rnd.val).other

/-- BUSY = 1 exactly outside IDLE (44_round_network.md R219), the phase's own facts, a fault record without repeats
(10_state.md R38), and the host's variables in canonical form. -/
structure State.Inv (s : State) : Prop where
  busy : s.status.busy = true ↔ s.phase ≠ .idle
  phase : s.PhaseInv
  faults : s.faults.Nodup
  vars : HostVars.wf s.vars = true

/-- The prekey window of a padded key `w`: `PW[m] = prekey[STEP + m]` (43_key_schedule.md R178), and the round keys of the
groups already written (R180). -/
def State.Window (s : State) (w : Vector Word 8) : Prop :=
  (∀ m : Fin 8, s.pw.get m = (prekeys w 132).getD (s.stepIdx.val + m.val) 0#32) ∧
    ∀ k : Fin 33, k.val < (if s.phase = .ksSbox then s.group.val else s.stepIdx.val / 4) → s.rk.get k = roundKey w k

/-- Two states that agree on everything a rule lets be observed: what reset leaves unspecified, and what a later command
overwrites before it reads it, may differ (93_implementation_defined.md U1-U5). -/
structure State.Alike (s t : State) : Prop where
  status : s.status = t.status
  keyLen : s.keyLen = t.keyLen
  phase : s.phase = t.phase
  faults : s.faults = t.faults
  keyW : s.keyW = t.keyW
  dinW : s.dinW = t.dinW
  host : s.host = t.host
  vars : s.vars = t.vars
  key : ∀ i, s.keyW.get i = true → s.key.get i = t.key.get i
  din : ∀ i, s.dinW.get i = true → s.din.get i = t.din.get i
  dout : s.status.doutValid = true → s.dout = t.dout
  rk : s.status.keyValid = true → s.rk = t.rk
  schedule : s.phase = .ksStep ∨ s.phase = .ksSbox →
    s.pw = t.pw ∧ s.stepIdx = t.stepIdx ∧
      ∀ k : Fin 33, k.val < (if s.phase = .ksSbox then s.group.val else s.stepIdx.val / 4) → s.rk.get k = t.rk.get k
  network : s.phase ≠ .idle → s.phase ≠ .ksStep → s.phase ≠ .ksSbox →
    s.rnd = t.rnd ∧ s.act = t.act ∧ s.active = t.active

end Sys2Proof.Machine
end

