-- ==== Sys2Proof/Certificates/Slice0/Obligations.lean ====
section
/-! DEFINITION. The statements about SERPENT_CORE, from the numbered rules of spec/. -/

open Sys2Proof Sys2Proof.Machine

/-- The values 10_state.md R41 states for reset, at `State.reset` and after a reset of any state. The registers R41
leaves unspecified are not mentioned; that a reset is an operation and no step is the model's choice (log 19). -/
def Obligations.ResetLeavesStatedValues : Prop :=
  ∀ s r : State, r = State.reset ∨ r = s.afterReset →
    r.status.word = 0#32 ∧ r.status.err = .none ∧ r.keyLen = 0#32 ∧ r.phase = .idle ∧ r.faults = [] ∧
      (∀ i, r.keyW.get i = false) ∧ (∀ i, r.dinW.get i = false) ∧
      r.readWord .blockSize = 16#32 ∧ r.readWord .keySize = 32#32

/-- The invariant of controller, fault record and host variables holds at reset; the variables' form is the model's choice
(log 20). -/
def Obligations.ResetMeetsInvariant : Prop := State.reset.Inv

/-- 30_encoding.md R72: the four command words, and the reserved opcodes 0x4..0xF. -/
def Obligations.CommandWordsDecode : Prop :=
  decodeWord 0x00000000#32 = .instr .nop ∧ decodeWord 0x00000001#32 = .instr .setKey ∧
    decodeWord 0x00000002#32 = .instr .encrypt ∧ decodeWord 0x00000003#32 = .instr .decrypt ∧
    encode .nop = some 0x00000000#32 ∧ encode .setKey = some 0x00000001#32 ∧
    encode .encrypt = some 0x00000002#32 ∧ encode .decrypt = some 0x00000003#32 ∧
    ∀ op : BitVec 4, 4 ≤ op.toNat → decodeWord (commandWord op) = .reject (.reservedOp (commandWord op))

/-- 30_encoding.md R75, over the number of the word: 16 and above has a nonzero RSVD. -/
def Obligations.DecodeIsTotalOnWords : Prop :=
  ∀ c : Word,
    (16 ≤ c.toNat → decodeWord c = .reject (.rsvdNonzero c)) ∧
      (4 ≤ c.toNat → c.toNat < 16 → decodeWord c = .reject (.reservedOp c)) ∧
      (c.toNat = 0 → decodeWord c = .instr .nop) ∧ (c.toNat = 1 → decodeWord c = .instr .setKey) ∧
      (c.toNat = 2 → decodeWord c = .instr .encrypt) ∧ (c.toNat = 3 → decodeWord c = .instr .decrypt)

/-- Decoding and encoding are inverse, on words and on the four bytes of a command. -/
def Obligations.DecodeEncodeAgree : Prop :=
  (∀ (i : Instr) (w : Word), decodeWord w = .instr i ↔ encode i = some w) ∧
    ∀ (i : Instr) (bs : List Byte), bs.length = 4 → (decode bs = .instr i ↔ encodeBytes i = some bs)

/-- 30_encoding.md R76: an operation that is none of the four commands has no word, and no word decodes to it. -/
def Obligations.InternalOperationsHaveNoWord : Prop :=
  ∀ i : Instr, i ≠ .nop → i ≠ .setKey → i ≠ .encrypt → i ≠ .decrypt →
    encode i = none ∧ ∀ w, decodeWord w ≠ .instr i

/-- 40_word_primitives.md R100, R101: rotations move bits, undo each other, and are refused outside 1..31. -/
def Obligations.RotationsMoveBits : Prop :=
  (∀ (x : Word) (n : Nat), 0 < n → n < 32 →
    (∀ b, b < 32 → (rotl32 x n).getLsbD ((b + n) % 32) = x.getLsbD b) ∧
      (rotl32 x n).toNat = x.toNat * 2 ^ n % 2 ^ 32 + x.toNat / 2 ^ (32 - n) ∧
      rotr32 x n = rotl32 x (32 - n) ∧ rotr32 (rotl32 x n) n = x ∧ rotl32 (rotr32 x n) n = x) ∧
    ∀ (x : Word) (n : Nat) (s : State), n = 0 ∨ 32 ≤ n →
      exec (.rotl32 x n) s = .refused (.rotateAmount n) ∧ exec (.rotr32 x n) s = .refused (.rotateAmount n)

/-- 40_word_primitives.md R102. -/
def Obligations.ShiftLeftDropsTopBits : Prop :=
  ∀ (x : Word) (n : Fin 32),
    (shl32 x n.val).toNat = x.toNat * 2 ^ n.val % 2 ^ 32 ∧ ∀ b, b < n.val → (shl32 x n.val).getLsbD b = false

/-- 40_word_primitives.md R103. -/
def Obligations.ByteswapReversesBytes : Prop :=
  ∀ x : Word, bytesLe (byteswap32 x) = (bytesLe x).reverse ∧ byteswap32 (byteswap32 x) = x

/-- The four word primitives complete on every operand in their domain and change only the primitives' output, which
is the model's own field (log 8). -/
def Obligations.WordPrimitivesComplete : Prop :=
  ∀ (s : State) (x : Word),
    (∀ n, 0 < n → n < 32 → exec (.rotl32 x n) s = .next { s with primOut := x.rotateLeft n } ∧
      exec (.rotr32 x n) s = .next { s with primOut := x.rotateRight n }) ∧
      (∀ n : Fin 32, exec (.shl32 x n) s = .next { s with primOut := x <<< n.val }) ∧
      exec (.bswap32 x) s = .next { s with
        primOut := (x &&& 0xFF#32) <<< 24 ||| (x &&& 0xFF00#32) <<< 8 ||| (x >>> 8 &&& 0xFF00#32) ||| x >>> 24 }

/-- A word function is the S-box of a table and of its word formula, for all quadruples (41_substitution.md R120). -/
def Sys2Proof.Machine.SboxIs (f : Quad → Quad) (t : List Nat) (e g h k : Word → Word → Word → Word → Word) : Prop :=
  (∀ (q : Quad) (j : Nat), j < 32 → t[nib q j]? = some (nib (f q) j)) ∧
    ∀ a b c d : Word, f ⟨a, b, c, d⟩ = ⟨e a b c d, g a b c d, h a b c d, k a b c d⟩

/-- 41_substitution.md R122-R129: forward S-boxes 0..7, each by its 16-entry table in every lane and by its word formula. -/
def Obligations.ForwardSboxesFollowTables : Prop :=
  SboxIs sboxS0 [3, 8, 15, 1, 10, 6, 5, 11, 14, 13, 4, 2, 7, 0, 9, 12]
    (fun a b c d => 0xFFFFFFFF#32 ^^^ a ^^^ (a &&& b) ^^^ c ^^^ (a &&& c) ^^^ (b &&& c) ^^^ (a &&& b &&& c) ^^^ d
        ^^^ (a &&& c &&& d) ^^^ (b &&& c &&& d))
    (fun a b c d => 0xFFFFFFFF#32 ^^^ a ^^^ (a &&& c) ^^^ (b &&& c) ^^^ (a &&& b &&& c) ^^^ (b &&& d)
        ^^^ (a &&& c &&& d) ^^^ (b &&& c &&& d))
    (fun a b c d => b ^^^ (a &&& b) ^^^ (a &&& c) ^^^ (a &&& b &&& c) ^^^ d ^^^ (b &&& d) ^^^ (b &&& c &&& d))
    (fun a b c d => a ^^^ b ^^^ c ^^^ d ^^^ (a &&& d)) ∧
  SboxIs sboxS1 [15, 12, 2, 7, 9, 0, 5, 10, 1, 11, 14, 8, 6, 13, 3, 4]
    (fun a b c d => 0xFFFFFFFF#32 ^^^ a ^^^ b ^^^ (b &&& c) ^^^ (a &&& d) ^^^ (c &&& d) ^^^ (a &&& c &&& d)
        ^^^ (b &&& c &&& d))
    (fun a b c d => 0xFFFFFFFF#32 ^^^ a ^^^ (a &&& b) ^^^ c ^^^ (a &&& c) ^^^ d ^^^ (b &&& d) ^^^ (a &&& b &&& d)
        ^^^ (a &&& c &&& d) ^^^ (b &&& c &&& d))
    (fun a b c d => 0xFFFFFFFF#32 ^^^ b ^^^ (a &&& b) ^^^ c ^^^ d)
    (fun a b c d => 0xFFFFFFFF#32 ^^^ b ^^^ (a &&& c) ^^^ d ^^^ (a &&& d) ^^^ (a &&& b &&& d) ^^^ (a &&& c &&& d)
        ^^^ (b &&& c &&& d)) ∧
  SboxIs sboxS2 [8, 6, 7, 9, 3, 12, 10, 15, 13, 1, 14, 4, 0, 11, 5, 2]
    (fun a b c d => b ^^^ c ^^^ (a &&& c) ^^^ d)
    (fun a b c d => a ^^^ b ^^^ c ^^^ (b &&& c) ^^^ (a &&& b &&& c) ^^^ (a &&& d) ^^^ (a &&& b &&& d) ^^^ (c &&& d)
        ^^^ (a &&& c &&& d))
    (fun a b c d => a ^^^ b ^^^ (b &&& c) ^^^ d ^^^ (b &&& d) ^^^ (a &&& b &&& d) ^^^ (c &&& d) ^^^ (a &&& c &&& d))
    (fun a b c d => 0xFFFFFFFF#32 ^^^ a ^^^ b ^^^ c ^^^ (a &&& b &&& c) ^^^ (b &&& d)) ∧
  SboxIs sboxS3 [0, 15, 11, 8, 12, 9, 6, 3, 13, 1, 2, 4, 10, 7, 5, 14]
    (fun a b c d => a ^^^ b ^^^ (b &&& c) ^^^ d ^^^ (a &&& d) ^^^ (c &&& d) ^^^ (a &&& c &&& d) ^^^ (b &&& c &&& d))
    (fun a b c d => a ^^^ b ^^^ (a &&& c) ^^^ (a &&& d) ^^^ (a &&& b &&& d) ^^^ (c &&& d) ^^^ (a &&& c &&& d))
    (fun a b c d => a ^^^ (a &&& b) ^^^ c ^^^ (a &&& b &&& c) ^^^ d ^^^ (b &&& d) ^^^ (a &&& b &&& d))
    (fun a b c d => a ^^^ b ^^^ (a &&& b) ^^^ c ^^^ (a &&& c) ^^^ (a &&& b &&& c) ^^^ d ^^^ (c &&& d)
        ^^^ (a &&& c &&& d)) ∧
  SboxIs sboxS4 [1, 15, 8, 3, 12, 0, 11, 6, 2, 5, 4, 10, 9, 14, 7, 13]
    (fun a b c d => 0xFFFFFFFF#32 ^^^ b ^^^ (a &&& b) ^^^ c ^^^ d ^^^ (a &&& d) ^^^ (b &&& d))
    (fun a b c d => a ^^^ (a &&& c) ^^^ (b &&& c) ^^^ d ^^^ (b &&& d) ^^^ (c &&& d) ^^^ (a &&& c &&& d)
        ^^^ (b &&& c &&& d))
    (fun a b c d => a ^^^ (a &&& b) ^^^ c ^^^ (b &&& c) ^^^ (a &&& b &&& c) ^^^ (b &&& d) ^^^ (a &&& b &&& d)
        ^^^ (c &&& d) ^^^ (b &&& c &&& d))
    (fun a b c d => a ^^^ b ^^^ c ^^^ (b &&& c) ^^^ (a &&& d) ^^^ (b &&& d) ^^^ (a &&& b &&& d)) ∧
  SboxIs sboxS5 [15, 5, 2, 11, 4, 10, 9, 12, 0, 3, 14, 8, 13, 6, 7, 1]
    (fun a b c d => 0xFFFFFFFF#32 ^^^ b ^^^ (a &&& b) ^^^ c ^^^ d ^^^ (a &&& d) ^^^ (b &&& d))
    (fun a b c d => 0xFFFFFFFF#32 ^^^ a ^^^ (a &&& b) ^^^ c ^^^ d ^^^ (b &&& d) ^^^ (a &&& b &&& d) ^^^ (c &&& d))
    (fun a b c d => 0xFFFFFFFF#32 ^^^ b ^^^ (a &&& c) ^^^ d ^^^ (a &&& b &&& d) ^^^ (c &&& d) ^^^ (a &&& c &&& d)
        ^^^ (b &&& c &&& d))
    (fun a b c d => 0xFFFFFFFF#32 ^^^ a ^^^ b ^^^ c ^^^ (a &&& b &&& c) ^^^ d ^^^ (a &&& d) ^^^ (a &&& c &&& d)) ∧
  SboxIs sboxS6 [7, 2, 12, 5, 8, 4, 6, 11, 14, 9, 1, 15, 13, 3, 10, 0]
    (fun a b c d => 0xFFFFFFFF#32 ^^^ a ^^^ b ^^^ c ^^^ (a &&& c) ^^^ (b &&& c) ^^^ (a &&& b &&& c) ^^^ d
        ^^^ (a &&& b &&& d) ^^^ (b &&& c &&& d))
    (fun a b c d => 0xFFFFFFFF#32 ^^^ b ^^^ c ^^^ (a &&& d))
    (fun a b c d => 0xFFFFFFFF#32 ^^^ a ^^^ (a &&& b) ^^^ c ^^^ (b &&& c) ^^^ (a &&& b &&& c) ^^^ (b &&& d)
        ^^^ (a &&& b &&& d) ^^^ (c &&& d) ^^^ (b &&& c &&& d))
    (fun a b c d => b ^^^ (a &&& b) ^^^ c ^^^ (a &&& c) ^^^ (a &&& b &&& c) ^^^ d ^^^ (c &&& d) ^^^ (b &&& c &&& d)) ∧
  SboxIs sboxS7 [1, 13, 15, 0, 14, 8, 2, 11, 7, 4, 12, 10, 9, 3, 5, 6]
    (fun a b c d => 0xFFFFFFFF#32 ^^^ (a &&& b) ^^^ c ^^^ (a &&& d) ^^^ (b &&& d) ^^^ (c &&& d) ^^^ (a &&& c &&& d)
        ^^^ (b &&& c &&& d))
    (fun a b c d => b ^^^ (a &&& b) ^^^ c ^^^ (a &&& c) ^^^ (b &&& c) ^^^ d ^^^ (a &&& d) ^^^ (a &&& b &&& d)
        ^^^ (a &&& c &&& d))
    (fun a b c d => a ^^^ b ^^^ c ^^^ (a &&& b &&& c) ^^^ d ^^^ (a &&& d) ^^^ (b &&& d) ^^^ (a &&& b &&& d)
        ^^^ (b &&& c &&& d))
    (fun a b c d => a ^^^ b ^^^ c ^^^ (a &&& c) ^^^ (a &&& b &&& c) ^^^ (a &&& d))

/-- 41_substitution.md R130-R137: inverse S-boxes 0..7, each by its 16-entry table in every lane and by its word formula. -/
def Obligations.InverseSboxesFollowTables : Prop :=
  SboxIs sboxI0 [13, 3, 11, 0, 10, 6, 5, 12, 1, 14, 4, 7, 15, 9, 8, 2]
    (fun a b c d => 0xFFFFFFFF#32 ^^^ (a &&& b) ^^^ c ^^^ (b &&& c) ^^^ (a &&& d) ^^^ (b &&& d) ^^^ (a &&& b &&& d)
        ^^^ (c &&& d) ^^^ (a &&& c &&& d) ^^^ (b &&& c &&& d))
    (fun a b c d => a ^^^ b ^^^ c ^^^ (a &&& c) ^^^ (b &&& d) ^^^ (a &&& c &&& d) ^^^ (b &&& c &&& d))
    (fun a b c d => 0xFFFFFFFF#32 ^^^ a ^^^ b ^^^ (a &&& b) ^^^ c ^^^ d)
    (fun a b c d => 0xFFFFFFFF#32 ^^^ a ^^^ (b &&& c) ^^^ d ^^^ (a &&& b &&& d) ^^^ (c &&& d) ^^^ (a &&& c &&& d)
        ^^^ (b &&& c &&& d)) ∧
  SboxIs sboxI1 [5, 8, 2, 14, 15, 6, 12, 3, 11, 4, 7, 9, 1, 13, 10, 0]
    (fun a b c d => 0xFFFFFFFF#32 ^^^ a ^^^ b ^^^ (a &&& b) ^^^ (a &&& b &&& c) ^^^ (b &&& d) ^^^ (a &&& c &&& d)
        ^^^ (b &&& c &&& d))
    (fun a b c d => b ^^^ c ^^^ (a &&& b &&& c) ^^^ d ^^^ (a &&& d) ^^^ (b &&& d) ^^^ (a &&& c &&& d)
        ^^^ (b &&& c &&& d))
    (fun a b c d => 0xFFFFFFFF#32 ^^^ a ^^^ b ^^^ (a &&& c) ^^^ (b &&& c) ^^^ (a &&& b &&& c) ^^^ d
        ^^^ (a &&& c &&& d))
    (fun a b c d => a ^^^ c ^^^ d ^^^ (b &&& d)) ∧
  SboxIs sboxI2 [12, 9, 15, 4, 11, 14, 1, 2, 0, 3, 6, 13, 5, 8, 10, 7]
    (fun a b c d => a ^^^ b ^^^ c ^^^ (b &&& c) ^^^ (b &&& d))
    (fun a b c d => b ^^^ (a &&& b) ^^^ c ^^^ (a &&& d) ^^^ (a &&& b &&& d) ^^^ (c &&& d) ^^^ (a &&& c &&& d))
    (fun a b c d => 0xFFFFFFFF#32 ^^^ a ^^^ (a &&& b) ^^^ c ^^^ d ^^^ (a &&& d) ^^^ (b &&& d) ^^^ (a &&& b &&& d)
        ^^^ (a &&& c &&& d))
    (fun a b c d => 0xFFFFFFFF#32 ^^^ (a &&& b) ^^^ (b &&& c) ^^^ (a &&& b &&& c) ^^^ d ^^^ (a &&& c &&& d)) ∧
  SboxIs sboxI3 [0, 9, 10, 7, 11, 14, 6, 13, 3, 5, 12, 2, 4, 8, 15, 1]
    (fun a b c d => a ^^^ c ^^^ (b &&& c) ^^^ d ^^^ (a &&& d) ^^^ (b &&& d) ^^^ (b &&& c &&& d))
    (fun a b c d => b ^^^ c ^^^ (b &&& c) ^^^ (a &&& b &&& c) ^^^ d ^^^ (a &&& d) ^^^ (a &&& c &&& d)
        ^^^ (b &&& c &&& d))
    (fun a b c d => (a &&& b) ^^^ (a &&& c) ^^^ (b &&& c) ^^^ (a &&& d) ^^^ (b &&& d) ^^^ (a &&& b &&& d)
        ^^^ (c &&& d) ^^^ (a &&& c &&& d))
    (fun a b c d => a ^^^ b ^^^ c ^^^ (a &&& c) ^^^ (a &&& b &&& c) ^^^ (a &&& d) ^^^ (a &&& b &&& d) ^^^ (c &&& d)) ∧
  SboxIs sboxI4 [5, 0, 8, 3, 10, 9, 7, 14, 2, 12, 11, 6, 4, 15, 13, 1]
    (fun a b c d => 0xFFFFFFFF#32 ^^^ a ^^^ b ^^^ c ^^^ d ^^^ (a &&& d) ^^^ (a &&& b &&& d) ^^^ (c &&& d)
        ^^^ (a &&& c &&& d))
    (fun a b c d => (a &&& b) ^^^ c ^^^ (a &&& c) ^^^ d ^^^ (a &&& d) ^^^ (a &&& c &&& d))
    (fun a b c d => 0xFFFFFFFF#32 ^^^ a ^^^ b ^^^ (a &&& b) ^^^ c ^^^ (a &&& c) ^^^ (a &&& b &&& c) ^^^ d
        ^^^ (b &&& d) ^^^ (a &&& b &&& d))
    (fun a b c d => b ^^^ (a &&& b) ^^^ c ^^^ (a &&& d) ^^^ (a &&& b &&& d) ^^^ (c &&& d)) ∧
  SboxIs sboxI5 [8, 15, 2, 9, 4, 1, 13, 14, 11, 6, 5, 3, 7, 12, 10, 0]
    (fun a b c d => a ^^^ (b &&& c) ^^^ d ^^^ (a &&& b &&& d))
    (fun a b c d => a ^^^ b ^^^ (a &&& c) ^^^ (b &&& c) ^^^ (a &&& b &&& c) ^^^ d ^^^ (a &&& d) ^^^ (a &&& b &&& d))
    (fun a b c d => a ^^^ (a &&& b) ^^^ c ^^^ (b &&& d) ^^^ (a &&& b &&& d) ^^^ (a &&& c &&& d))
    (fun a b c d => 0xFFFFFFFF#32 ^^^ b ^^^ (a &&& b) ^^^ c ^^^ (a &&& b &&& c) ^^^ (a &&& d)) ∧
  SboxIs sboxI6 [15, 10, 1, 13, 5, 3, 6, 0, 4, 9, 14, 7, 2, 12, 8, 11]
    (fun a b c d => 0xFFFFFFFF#32 ^^^ a ^^^ (a &&& b) ^^^ (a &&& c) ^^^ (b &&& c) ^^^ (a &&& b &&& c) ^^^ d
        ^^^ (a &&& b &&& d) ^^^ (b &&& c &&& d))
    (fun a b c d => 0xFFFFFFFF#32 ^^^ b ^^^ c ^^^ (a &&& c) ^^^ d)
    (fun a b c d => 0xFFFFFFFF#32 ^^^ a ^^^ b ^^^ (b &&& c) ^^^ (b &&& d) ^^^ (a &&& b &&& d) ^^^ (c &&& d)
        ^^^ (b &&& c &&& d))
    (fun a b c d => 0xFFFFFFFF#32 ^^^ b ^^^ (a &&& b) ^^^ c ^^^ (b &&& c) ^^^ (a &&& b &&& c) ^^^ d ^^^ (a &&& d)
        ^^^ (a &&& b &&& d) ^^^ (c &&& d) ^^^ (b &&& c &&& d)) ∧
  SboxIs sboxI7 [3, 0, 6, 13, 9, 14, 15, 8, 5, 12, 11, 7, 10, 1, 4, 2]
    (fun a b c d => 0xFFFFFFFF#32 ^^^ a ^^^ b ^^^ (b &&& c) ^^^ (b &&& d) ^^^ (a &&& b &&& d) ^^^ (c &&& d)
        ^^^ (b &&& c &&& d))
    (fun a b c d => 0xFFFFFFFF#32 ^^^ a ^^^ c ^^^ (b &&& c) ^^^ d ^^^ (a &&& d) ^^^ (b &&& d) ^^^ (a &&& c &&& d)
        ^^^ (b &&& c &&& d))
    (fun a b c d => b ^^^ (a &&& c) ^^^ d ^^^ (a &&& b &&& d) ^^^ (c &&& d) ^^^ (a &&& c &&& d))
    (fun a b c d => (a &&& b) ^^^ c ^^^ (a &&& b &&& c) ^^^ (a &&& d) ^^^ (b &&& d) ^^^ (a &&& b &&& d))

/-- An operation of an S-box moves the working state from bank ACT through `f` into the other bank (44_round_network.md R204). -/
def Sys2Proof.Machine.CrossesBanks (i : Instr) (f : Quad → Quad) : Prop :=
  ∀ s : State, ∃ t, exec i s = .next t ∧ t.act = s.act.other ∧ t.bank t.act = f (s.bank s.act) ∧
    t.bank s.act = s.bank s.act ∧ t = { s with bankA := t.bankA, bankB := t.bankB, act := t.act }

/-- Every S-box operation completes, and what it changes: bank ACT into the other bank, ACT toggled (44_round_network.md
R204). R204 speaks of the controller's S-box micro-steps; that the operation has this effect in every state, whatever PHASE is,
is the model's choice (log 9). -/
def Obligations.SboxOperationsCrossBanks : Prop :=
  CrossesBanks .s0 sboxS0 ∧ CrossesBanks .s1 sboxS1 ∧ CrossesBanks .s2 sboxS2 ∧ CrossesBanks .s3 sboxS3 ∧
    CrossesBanks .s4 sboxS4 ∧ CrossesBanks .s5 sboxS5 ∧ CrossesBanks .s6 sboxS6 ∧ CrossesBanks .s7 sboxS7 ∧
    CrossesBanks .i0 sboxI0 ∧ CrossesBanks .i1 sboxI1 ∧ CrossesBanks .i2 sboxI2 ∧ CrossesBanks .i3 sboxI3 ∧
    CrossesBanks .i4 sboxI4 ∧ CrossesBanks .i5 sboxI5 ∧ CrossesBanks .i6 sboxI6 ∧ CrossesBanks .i7 sboxI7

/-- 41_substitution.md R138, for every S-box number and quadruple. -/
def Obligations.SboxInverseLaw : Prop :=
  ∀ (n : Fin 8) (q : Quad), invSbox n (sbox n q) = q ∧ sbox n (invSbox n q) = q

/-- LT and ILT complete, replace bank ACT by the quadruple of the assignments of 42_linear_transform.md R150 and R151, written
with the library's rotations, and change nothing else: in place on bank ACT is 44_round_network.md R204. That they do so in
every state, whatever PHASE is, is the model's choice (log 9). -/
def Obligations.LinearTransformSteps : Prop :=
  ∀ s : State,
    (∃ t, exec .lt s = .next t ∧ t = { s with bankA := t.bankA, bankB := t.bankB } ∧
      t.bank s.act.other = s.bank s.act.other ∧
      t.bank s.act =
        (let q := s.bank s.act
        let a1 := q.w0.rotateLeft 13
        let c1 := q.w2.rotateLeft 3
        let b2 := (q.w1 ^^^ a1 ^^^ c1).rotateLeft 1
        let d2 := (q.w3 ^^^ c1 ^^^ (a1 <<< 3)).rotateLeft 7
        let a2 := a1 ^^^ b2 ^^^ d2
        let c2 := c1 ^^^ d2 ^^^ (b2 <<< 7)
        ⟨a2.rotateLeft 5, b2, c2.rotateLeft 22, d2⟩)) ∧
      ∃ t, exec .ilt s = .next t ∧ t = { s with bankA := t.bankA, bankB := t.bankB } ∧
        t.bank s.act.other = s.bank s.act.other ∧
        t.bank s.act =
          (let q := s.bank s.act
          let c1 := q.w2.rotateRight 22 ^^^ q.w3 ^^^ (q.w1 <<< 7)
          let a1 := q.w0.rotateRight 5 ^^^ q.w1 ^^^ q.w3
          let d1 := q.w3.rotateRight 7 ^^^ c1 ^^^ (a1 <<< 3)
          let b1 := q.w1.rotateRight 1 ^^^ a1 ^^^ c1
          ⟨a1.rotateRight 13, b1, c1.rotateRight 3, d1⟩)

/-- 42_linear_transform.md R152. -/
def Obligations.LinearTransformInverse : Prop := ∀ q : Quad, ilt (lt q) = q ∧ lt (ilt q) = q

/-- 42_linear_transform.md R153. -/
def Obligations.LinearTransformIsLinear : Prop :=
  (∀ p q : Quad, lt (p.xor q) = (lt p).xor (lt q) ∧ ilt (p.xor q) = (ilt p).xor (ilt q)) ∧
    lt Quad.zero = Quad.zero ∧ ilt Quad.zero = Quad.zero

/-- KEYMIX completes, XORs `RK[k]` into bank ACT word by word, changes nothing else, and undoes itself: the function is
44_round_network.md R200, in place on bank ACT is R204. That it does so in every state, whatever PHASE is, is the model's choice
(log 9). -/
def Obligations.KeymixXorsRoundKey : Prop :=
  ∀ (s : State) (k : Fin 33),
    ∃ t, exec (.keymix k) s = .next t ∧ t = { s with bankA := t.bankA, bankB := t.bankB } ∧
      t.bank s.act.other = s.bank s.act.other ∧
      (∀ i, (t.bank s.act).get i = (s.bank s.act).get i ^^^ (s.rk.get k).get i) ∧
      exec (.keymix k) t = .next s

/-- KS_PAD completes on every legal KEY_LEN: the key words, the pad word, zeros (43_key_schedule.md R172) into PW (R182, R183);
the unwritten KEY registers it reads are recorded; nothing else changes. That it is an instruction with this effect in every
phase is the model's choice (log 9), and that it goes on after an unwritten KEY register is read from the pseudocode of R183 by
inference (log 16). -/
def Obligations.PadKeyWords : Prop :=
  ∀ s : State, s.keyLen.toNat % 4 = 0 → s.keyLen.toNat ≤ 32 →
    ∃ t, exec .ksPad s = .next t ∧
      (∀ i : Fin 8, t.pw.get i =
        if i.val < s.keyLen.toNat / 4 then s.key.get i else if i.val = s.keyLen.toNat / 4 then 1#32 else 0#32) ∧
      (∀ f, f ∈ t.faults ↔ f ∈ s.faults ∨
        ∃ i : Fin 8, i.val < s.keyLen.toNat / 4 ∧ s.keyW.get i = false ∧ f = .unwrittenInput (.key i)) ∧
      t = { s with pw := t.pw, faults := t.faults }

/-- KS_STEP for STEP in 0..131 (43_key_schedule.md R179). The controller takes it in its phase alone (44_round_network.md R219);
that it has this effect in every state, whatever PHASE is, is the model's choice (log 9). -/
def Obligations.RecurrenceStep : Prop :=
  ∀ s : State, s.stepIdx.val < 132 →
    ∃ t, exec .ksStep s = .next t ∧ t.stepIdx.val = s.stepIdx.val + 1 ∧
      (∀ m : Nat, ∀ h : m < 7, t.pw[m] = s.pw[m + 1]) ∧
      t.pw[7] = (s.pw[0] ^^^ s.pw[3] ^^^ s.pw[5] ^^^ s.pw[7] ^^^ 0x9E3779B9#32
        ^^^ BitVec.ofNat 32 s.stepIdx.val).rotateLeft 11 ∧
      t = { s with pw := t.pw, stepIdx := t.stepIdx }

/-- KS_SBOX of group `k` writes `RK[k]` from `PW[4..7]` through the S-box of the cycle S3, S2, S1, S0, S7, S6, S5, S4, and it is
the operation of a KS_SBOX phase with `STEP = 4k + 4` (43_key_schedule.md R180). R180 runs it with that STEP only; that it has
this effect in every state and for every `k` is the model's choice (log 9). -/
def Obligations.RoundKeyWrite : Prop :=
  (∀ (s : State) (k : Fin 33),
    ∃ t f, exec (.ksSbox k) s = .next t ∧
      [sboxS3, sboxS2, sboxS1, sboxS0, sboxS7, sboxS6, sboxS5, sboxS4][k.val % 8]? = some f ∧
      t.rk.get k = f ⟨s.pw[4], s.pw[5], s.pw[6], s.pw[7]⟩ ∧ (∀ j, j ≠ k → t.rk.get j = s.rk.get j) ∧
      t = { s with rk := t.rk }) ∧
    ∀ (s : State) (k : Fin 33), s.phase = .ksSbox → s.stepIdx.val = 4 * k.val + 4 → s.microOp = some (.ksSbox k)

/-- Outside the operand domains of 43_key_schedule.md R172 and R179 the model refuses by name (its choice, log 11). -/
def Obligations.OperandDomainsRefused : Prop :=
  ∀ s : State,
    (s.keyLen.toNat % 4 ≠ 0 ∨ 32 < s.keyLen.toNat → exec .ksPad s = .refused (.padLength s.keyLen)) ∧
      (s.stepIdx.val = 132 → exec .ksStep s = .refused .stepExhausted)

/-- 44_round_network.md R218: NOP with BUSY = 0, and NOP written while BUSY = 1. -/
def Obligations.NopClearsErr : Prop :=
  ∀ s : State,
    (s.status.busy = false → exec .nop s = .next { s with status := { s.status with err := .none } }) ∧
      (s.status.busy = true → exec .nop s = .next (s.busyWrite .cmd 0x00000000#32))

/-- The acceptance step of SET_KEY on a legal length (43_key_schedule.md R183, R185); with an unwritten key word it goes on
(log 16). -/
def Obligations.SetKeyAccepted : Prop :=
  ∀ s : State, s.status.busy = false → s.keyLen.toNat % 4 = 0 → s.keyLen.toNat ≤ 32 →
    ∃ t, exec .setKey s = .next t ∧
      (∀ i : Fin 8, t.pw.get i =
        if i.val < s.keyLen.toNat / 4 then s.key.get i else if i.val = s.keyLen.toNat / 4 then 1#32 else 0#32) ∧
      (∀ f, f ∈ t.faults ↔ f ∈ s.faults ∨
        ∃ i : Fin 8, i.val < s.keyLen.toNat / 4 ∧ s.keyW.get i = false ∧ f = .unwrittenInput (.key i)) ∧
      t = { s with
        status := { s.status with busy := true, keyValid := false }, opc := 0x1#4, pw := t.pw, stepIdx := 0,
        phase := .ksStep, faults := t.faults }

/-- 43_key_schedule.md R171, R184: the first failing check decides ERR, and nothing else changes. -/
def Obligations.SetKeyRejectsLength : Prop :=
  ∀ s : State, s.status.busy = false →
    (s.keyLen.toNat % 4 ≠ 0 →
      exec .setKey s = .next { s with status := { s.status with err := .invalidKeyLength } }) ∧
      (s.keyLen.toNat % 4 = 0 → 32 < s.keyLen.toNat →
        exec .setKey s = .next { s with status := { s.status with err := .keyTooLong } }) ∧
      (s.keyLen.toNat % 4 = 0 → s.keyLen.toNat ≤ 32 → validate s.keyLen = none)

/-- The acceptance steps of ENCRYPT and DECRYPT with a schedule (44_round_network.md R212, R217); with an unwritten
DIN word they go on (log 16). -/
def Obligations.BlockCommandsAccepted : Prop :=
  ∀ s : State, s.status.busy = false → s.status.keyValid = true →
    (∃ t, exec .encrypt s = .next t ∧
      (∀ f, f ∈ t.faults ↔ f ∈ s.faults ∨ ∃ i : Fin 4, s.dinW.get i = false ∧ f = .unwrittenInput (.din i)) ∧
      t = { s with
        status := { s.status with busy := true }, opc := 0x2#4, bankA := s.din, act := .a, rnd := 0, phase := .encMix,
        faults := t.faults }) ∧
      ∃ t, exec .decrypt s = .next t ∧
        (∀ f, f ∈ t.faults ↔ f ∈ s.faults ∨ ∃ i : Fin 4, s.dinW.get i = false ∧ f = .unwrittenInput (.din i)) ∧
        t = { s with
          status := { s.status with busy := true }, opc := 0x3#4, bankA := s.din, act := .a, rnd := 31,
          phase := .decMix32, faults := t.faults }

/-- 44_round_network.md R221: ENCRYPT or DECRYPT with KEY_VALID = 0. -/
def Obligations.BlockCommandsWithoutSchedule : Prop :=
  ∀ s : State, s.status.busy = false → s.status.keyValid = false →
    ∃ t, exec .encrypt s = .next t ∧ exec .decrypt s = .next t ∧
      (∀ f, f ∈ t.faults ↔ f ∈ s.faults ∨ f = .noSchedule) ∧
      t = { s with status := { s.status with err := .noSchedule }, faults := t.faults }

/-- 10_state.md R28, 60_exceptions.md R256: a write to CMD, KEY_LEN, KEY[i] or DIN[i] while BUSY = 1, whatever the word; a
write to a read-only register while BUSY = 1 stays without effect. -/
def Obligations.BusyWritesIgnored : Prop :=
  ∀ (s : State) (r : Reg) (v : Word), s.status.busy = true →
    (r = .cmd ∨ r = .keyLen ∨ (∃ i, r = .key i) ∨ (∃ i, r = .din i) →
      ∃ t, s.busWrite r.offset 4 v = .next t ∧ (∀ f, f ∈ t.faults ↔ f ∈ s.faults ∨ f = .busyWrite r v) ∧
        t = { s with status := { s.status with protoErr := true }, faults := t.faults }) ∧
      (r = .blockSize ∨ r = .keySize ∨ r = .status ∨ (∃ i, r = .dout i) → s.busWrite r.offset 4 v = .next s)

/-- 30_encoding.md R74: a reserved command word written with BUSY = 0, and with BUSY = 1. -/
def Obligations.ReservedWordsComplete : Prop :=
  ∀ (s : State) (c : Word), 4 ≤ c.toNat →
    (s.status.busy = false →
      ∃ t, s.busWrite 0x08#8 4 c = .next t ∧ (∀ f, f ∈ t.faults ↔ f ∈ s.faults ∨ f = .illegalCommand c) ∧
        t = { s with status := { s.status with err := .illegalCommand }, faults := t.faults }) ∧
      (s.status.busy = true → s.busWrite 0x08#8 4 c = .next (s.busyWrite .cmd c))

/-- What an aligned 32-bit read of each register gives (10_state.md R20-R33): its word in the host variable. Nothing else
changes but the fault record, and that only at an unmarked DIN[i] and at DOUT[i] with DOUT_VALID = 0. The host's
variables are the model's form (log 20), and the value of an unwritten DIN[i] or DOUT[i] is the model's (log 7). -/
def Obligations.RegisterReads : Prop :=
  ∀ (s : State) (r : Reg) (x : Nat),
    HostVars.get x (s.busRead r.offset 4 x).vars = some (match r with
      | .blockSize => 16#32
      | .keySize => 32#32
      | .cmd => 0#32
      | .status => s.status.word
      | .keyLen => s.keyLen
      | .key _ => 0#32
      | .din i => s.din.get i
      | .dout i => s.dout.get i) ∧
      (∀ y, y ≠ x → HostVars.get y (s.busRead r.offset 4 x).vars = HostVars.get y s.vars) ∧
      s.busRead r.offset 4 x =
        { s with vars := (s.busRead r.offset 4 x).vars, faults := (s.busRead r.offset 4 x).faults } ∧
      ((∀ i, r = .din i → s.dinW.get i = true) → (∀ i, r = .dout i → s.status.doutValid = true) →
        (s.busRead r.offset 4 x).faults = s.faults)

/-- 10_state.md R21, R22: a host read gives the constants, and writes to them are ignored. The list of host variables that a
read fills is the model's form (log 20). -/
def Obligations.ConstantRegisters : Prop :=
  ∀ (s : State) (v : Word) (x : Nat),
    HostVars.get x (s.busRead 0x00#8 4 x).vars = some 16#32 ∧ HostVars.get x (s.busRead 0x04#8 4 x).vars = some 32#32 ∧
      s.busWrite 0x00#8 4 v = .next s ∧ s.busWrite 0x04#8 4 v = .next s

/-- 10_state.md R31, R34; 70_reset_and_hazards.md R287: no host read depends on KEY, RK, PW or the banks. -/
def Obligations.KeyMaterialUnreadable : Prop :=
  ∀ (s : State) (off : BitVec 8) (n x : Nat) (key : Vector Word 8) (rk : Vector Quad 33) (pw : Vector Word 8) (a b : Quad),
    ({ s with key := key, rk := rk, pw := pw, bankA := a, bankB := b }.busRead off n x).vars = (s.busRead off n x).vars ∧
      ({ s with key := key, rk := rk, pw := pw, bankA := a, bankB := b }.busRead off n x).faults =
        (s.busRead off n x).faults

/-- An access to an undecoded offset is not performed, reads zero, and is recorded as BUS_UNMAPPED (20_memory.md R52). No other
fault is added, but for BUS_WIDTH where R53 names the same access: that both are recorded is read by inference (log 5). -/
def Obligations.UndecodedAccess : Prop :=
  ∀ (s : State) (off : BitVec 8) (n x : Nat) (v : Word),
    (0x14 ≤ off.toNat ∧ off.toNat ≤ 0x1F) ∨ 0x60 ≤ off.toNat →
      (∃ t, s.busWrite off n v = .next t ∧ t = { s with faults := t.faults } ∧
        ∀ f, f ∈ t.faults ↔
          f ∈ s.faults ∨ f = .busUnmapped off ∨ ((n ≠ 4 ∨ off.toNat % 4 ≠ 0) ∧ f = .busWidth off n)) ∧
        HostVars.get x (s.busRead off n x).vars = some 0#32 ∧
        (∀ y, y ≠ x → HostVars.get y (s.busRead off n x).vars = HostVars.get y s.vars) ∧
        (∀ f, f ∈ (s.busRead off n x).faults ↔
          f ∈ s.faults ∨ f = .busUnmapped off ∨ ((n ≠ 4 ∨ off.toNat % 4 ≠ 0) ∧ f = .busWidth off n)) ∧
        s.busRead off n x = { s with vars := (s.busRead off n x).vars, faults := (s.busRead off n x).faults }

/-- An access that is not an aligned 32-bit access is not performed, reads zero, and is recorded as BUS_WIDTH (20_memory.md R53).
No other fault is added, but for BUS_UNMAPPED where R52 names the same access: that both are recorded is read by inference
(log 5). -/
def Obligations.IllSizedAccess : Prop :=
  ∀ (s : State) (off : BitVec 8) (n x : Nat) (v : Word), n ≠ 4 ∨ off.toNat % 4 ≠ 0 →
    (∃ t, s.busWrite off n v = .next t ∧ t = { s with faults := t.faults } ∧
      ∀ f, f ∈ t.faults ↔
        f ∈ s.faults ∨ f = .busWidth off n ∨
          (((0x14 ≤ off.toNat ∧ off.toNat ≤ 0x1F) ∨ 0x60 ≤ off.toNat) ∧ f = .busUnmapped off)) ∧
      HostVars.get x (s.busRead off n x).vars = some 0#32 ∧
      (∀ y, y ≠ x → HostVars.get y (s.busRead off n x).vars = HostVars.get y s.vars) ∧
      (∀ f, f ∈ (s.busRead off n x).faults ↔
        f ∈ s.faults ∨ f = .busWidth off n ∨
          (((0x14 ≤ off.toNat ∧ off.toNat ≤ 0x1F) ∨ 0x60 ≤ off.toNat) ∧ f = .busUnmapped off)) ∧
      s.busRead off n x = { s with vars := (s.busRead off n x).vars, faults := (s.busRead off n x).faults }

/-- 60_exceptions.md R257: a read of DOUT[i] records DOUT_UNWRITTEN exactly while DOUT_VALID = 0. -/
def Obligations.DoutReadBeforeResult : Prop :=
  ∀ (s : State) (i : Fin 4) (x : Nat) (f : Fault),
    f ∈ (s.busRead (Reg.dout i).offset 4 x).faults ↔
      f ∈ s.faults ∨ (s.status.doutValid = false ∧ f = .doutUnwritten i)

/-- 60_exceptions.md R258: which inputs a command or a host read records as unwritten. -/
def Obligations.UnwrittenInputsRecorded : Prop :=
  (∀ (s : State) (i : Fin 4) (x : Nat) (f : Fault),
    f ∈ (s.busRead (Reg.din i).offset 4 x).faults ↔ f ∈ s.faults ∨ (s.dinW.get i = false ∧ f = .unwrittenInput (.din i))) ∧
    (∀ (s t : State) (i : Fin 8), s.status.busy = false → s.keyLen.toNat % 4 = 0 → s.keyLen.toNat ≤ 32 →
      exec .setKey s = .next t → Fault.unwrittenInput (.key i) ∉ s.faults →
        (.unwrittenInput (.key i) ∈ t.faults ↔ i.val < s.keyLen.toNat / 4 ∧ s.keyW.get i = false)) ∧
    ∀ (s t : State) (i : Fin 4), s.status.busy = false → s.status.keyValid = true →
      exec .encrypt s = .next t ∨ exec .decrypt s = .next t → Fault.unwrittenInput (.din i) ∉ s.faults →
        (.unwrittenInput (.din i) ∈ t.faults ↔ s.dinW.get i = false)

/-- Host writes with BUSY = 0 (10_state.md R30-R33, R39): the register holds the word, a later host read gives it, KEY[i] and
DIN[i] are marked written, and no other register changes; a write to a read-only register changes nothing. That a write of
KEY_LEN sets no mark, though 20_memory.md R58 names one, is read from R39 by inference (log 13). -/
def Obligations.HostWritesStore : Prop :=
  ∀ (s : State) (v : Word) (x : Nat), s.status.busy = false →
    (∃ t, s.busWrite 0x10#8 4 v = .next t ∧ t = { s with keyLen := v } ∧
      HostVars.get x (t.busRead 0x10#8 4 x).vars = some v) ∧
      (∀ i : Fin 8, ∃ t, s.busWrite (Reg.key i).offset 4 v = .next t ∧ t.key.get i = v ∧ t.keyW.get i = true ∧
        (∀ j, j ≠ i → t.key.get j = s.key.get j ∧ t.keyW.get j = s.keyW.get j) ∧
        t = { s with key := t.key, keyW := t.keyW }) ∧
      (∀ i : Fin 4, ∃ t, s.busWrite (Reg.din i).offset 4 v = .next t ∧ t.din.get i = v ∧
        HostVars.get x (t.busRead (Reg.din i).offset 4 x).vars = some v ∧ t.dinW.get i = true ∧ (∀ j, j ≠ i → t.din.get j = s.din.get j ∧ t.dinW.get j = s.dinW.get j) ∧
        t = { s with din := t.din, dinW := t.dinW }) ∧
      s.busWrite 0x0C#8 4 v = .next s ∧ ∀ i : Fin 4, s.busWrite (Reg.dout i).offset 4 v = .next s

/-- 00_scope.md R11: `le32`, `bytes_le`, and that they are inverse; a 16-byte block survives its packing (20_memory.md R55). -/
def Obligations.LittleEndianPacking : Prop :=
  (∀ (m : List Byte) (i : Nat) (h : 4 * i + 3 < m.length),
    (le32 m i).toNat = m[4 * i].toNat + 2 ^ 8 * m[4 * i + 1].toNat + 2 ^ 16 * m[4 * i + 2].toNat
      + 2 ^ 24 * m[4 * i + 3].toNat) ∧
    (∀ w : Word, le32 (bytesLe w) 0 = w ∧
      (bytesLe w).map BitVec.toNat =
        [w.toNat % 2 ^ 8, w.toNat / 2 ^ 8 % 2 ^ 8, w.toNat / 2 ^ 16 % 2 ^ 8, w.toNat / 2 ^ 24]) ∧
    ∀ pb : List Byte, pb.length = 16 → blockBytes (packBlock pb) = pb

/-- With no fault and the host to move, a step runs the host's next line on the state without it: a write line is the bus
write, a read line the bus read (30_encoding.md R77), a `wait` with BUSY = 0 stores STATUS in its variable and ends (R78). A
write of a command word to CMD is `exec` of the decoded instruction, of a reserved word the illegal command. Which agent moves
and the host's variables are the model's form (log 1, log 20). -/
def Obligations.StepRunsDecodedCommand : Prop :=
  ∀ (s : State) (g : Nat) (op : HostOp) (rest : List HostLine), s.faults = [] →
    s.host = ⟨g, op⟩ :: rest → s.phase = .idle ∨ g = 0 →
      (∀ c : Word, op = .write 0x08#8 4 c →
        (∀ i : Instr, decodeWord c = .instr i → step s = exec i { s with host := rest }) ∧
          ∀ r, decodeWord c = .reject r → step s = .next ({ s with host := rest }.illegalCommand c)) ∧
      (∀ off n v, op = .write off n v → step s = { s with host := rest }.busWrite off n v) ∧
      (∀ off n x, op = .read off n x → step s = .next ({ s with host := rest }.busRead off n x)) ∧
      ∀ x, op = .wait x → s.status.busy = false →
        ∃ t, step s = .next t ∧ t = { s with host := rest, vars := t.vars } ∧
          HostVars.get x t.vars = some s.status.word ∧ ∀ y, y ≠ x → HostVars.get y t.vars = HostVars.get y s.vars

/-- A step of the core is `exec` of the phase's operation with the controller's sequencing, and the gap of the next host line
counts down; sequencing around `exec` and gaps are the model's form (log 10, log 1). -/
def Obligations.StepRunsMicroOperation : Prop :=
  ∀ (s : State) (i : Instr), s.faults = [] → s.microOp = some i →
    (s.host = [] ∨ (∃ g op rest, s.host = ⟨g + 1, op⟩ :: rest) ∨
      ∃ x rest, s.host = ⟨0, .wait x⟩ :: rest ∧ s.status.busy = true) →
      (∀ t, exec i s = .next t → step s = .next t.sequence.spendGap) ∧ ∀ r, exec i s = .refused r → step s = .refused r

/-- 44_round_network.md R219, the table of phases, from every state that meets the invariant. That in IDLE, where R219 has no
step of the core, the core's step keeps the state is the model's form (log 3), and so is the split of a micro-step into `exec` of
an operation and the sequencing after it (log 10). -/
def Obligations.CoreFollowsPhaseTable : Prop :=
  ∀ s : State, s.Inv →
    (s.phase = .idle → s.microOp = none ∧ s.coreStep = .next s) ∧
      (s.phase ≠ .idle → ∃ i u t, s.microOp = some i ∧ exec i s = .next u ∧ s.coreStep = .next t ∧
        match s.phase with
        | .idle => False
        | .ksStep => i = .ksStep ∧ t.phase = if u.stepIdx.val % 4 = 0 then .ksSbox else .ksStep
        | .ksSbox => ∃ k : Fin 33, k.val = s.stepIdx.val / 4 - 1 ∧ i = .ksSbox k ∧
            if k = 32 then t.phase = .idle ∧ t.status = { s.status with busy := false, keyValid := true, err := .none }
            else t.phase = .ksStep ∧ t.status = s.status
        | .encMix => i = .keymix s.rnd ∧ t.phase = .encSbox
        | .encSbox => i = fwdInstr (roundBox s.rnd) ∧ t.phase = if s.rnd.val < 31 then .encLt else .encFinal
        | .encLt => i = .lt ∧ t.rnd.val = s.rnd.val + 1 ∧ t.phase = .encMix
        | .encFinal => i = .keymix 32 ∧ t.phase = .idle ∧ t.dout = u.active ∧
            t.status = { s.status with busy := false, doutValid := true, err := .none }
        | .decMix32 => i = .keymix 32 ∧ t.phase = .decIsbox
        | .decIlt => i = .ilt ∧ t.phase = .decIsbox
        | .decIsbox => i = invInstr (roundBox s.rnd) ∧ t.phase = .decMix
        | .decMix => i = .keymix s.rnd ∧
            if s.rnd.val = 0 then t.phase = .idle ∧ t.dout = u.active ∧
              t.status = { s.status with busy := false, doutValid := true, err := .none }
            else t.phase = .decIlt ∧ t.rnd.val + 1 = s.rnd.val)

/-- 60_exceptions.md R255: raising adds the reason and changes nothing else; a state with a recorded fault has no further
step and is never final; that the stop is the next step's fault is the model's form (log 4). -/
def Obligations.FaultedStateIsQuiescent : Prop :=
  (∀ (s : State) (f g : Fault),
    (g ∈ (s.raise f).faults ↔ g ∈ s.faults ∨ g = f) ∧ s.raise f = { s with faults := (s.raise f).faults }) ∧
    ∀ (s : State) (f : Fault) (fs : List Fault), s.faults = f :: fs → step s = .fault f ∧ s.final = false

/-- 60_exceptions.md R269: an IDLE core with no host line keeps every piece of state; that this is a step of the model is its
choice (log 3). -/
def Obligations.IdleCoreKeepsState : Prop :=
  ∀ s : State, s.phase = .idle → s.faults = [] → s.host = [] → step s = .next s

/-- A word placed for the host's next write is what the next step writes to CMD; placing is the model's own (log 2). -/
def Obligations.PlacedWordIsWritten : Prop :=
  ∀ (s : State) (w : Nat), s.faults = [] →
    step (s.withFetchWord 32 w) = s.busWrite 0x08#8 4 (BitVec.ofNat 32 w) ∧
      ∀ i, decodeTableWord 32 w = some i → step (s.withFetchWord 32 w) = exec i s

/-- 10_state.md R26: KEY_VALID falls only where SET_KEY starts expansion, and rises only at its last micro-step. -/
def Obligations.KeyValidChanges : Prop :=
  ∀ s t : State, step s = .next t → s.status.keyValid ≠ t.status.keyValid →
    (t.status.keyValid = false ∧ s.status.busy = false ∧ t.phase = .ksStep ∧ t.stepIdx.val = 0 ∧
      t.opc = 0x1#4 ∧ validate s.keyLen = none ∧ ∃ g rest, s.host = ⟨g, .write 0x08#8 4 0x00000001#32⟩ :: rest) ∨
      (t.status.keyValid = true ∧ s.phase = .ksSbox ∧ s.stepIdx.val = 132 ∧ t.phase = .idle ∧ t.status.err = .none)

/-- 10_state.md R27: DOUT_VALID is never cleared by a step, and a step that sets it completes an ENCRYPT or DECRYPT;
R28: PROTO_ERR is never cleared by a step, and a step that sets it records a BUSY_WRITE. -/
def Obligations.StickyStatusBits : Prop :=
  ∀ s t : State, step s = .next t →
    (s.status.doutValid = true → t.status.doutValid = true) ∧
      (s.status.doutValid = false → t.status.doutValid = true →
        (s.phase = .encFinal ∨ s.phase = .decMix) ∧ t.phase = .idle ∧ t.status.err = .none ∧ t.status.busy = false) ∧
      (s.status.protoErr = true → t.status.protoErr = true) ∧
      (s.status.protoErr = false → t.status.protoErr = true → s.status.busy = true ∧ ∃ r v, t.faults = [.busyWrite r v])

/-- 10_state.md R38: FAULTS is empty at reset, and no instruction, host access or micro-step removes from it. -/
def Obligations.FaultsAreNeverRemoved : Prop :=
  State.reset.faults = [] ∧
    (∀ (i : Instr) (s t : State), exec i s = .next t → s.faults <+: t.faults) ∧
    (∀ (s t : State) (off : BitVec 8) (n : Nat) (v : Word), s.busWrite off n v = .next t → s.faults <+: t.faults) ∧
    (∀ (s : State) (off : BitVec 8) (n x : Nat), s.faults <+: (s.busRead off n x).faults) ∧
    ∀ s t : State, s.coreStep = .next t → t.faults = s.faults

/-- DOUT changes only in the completion step of ENCRYPT or DECRYPT, which writes all four words, DOUT_VALID, ERR and BUSY
together (10_state.md R33, 20_memory.md R57). -/
def Obligations.DoutWrittenOnlyAtCompletion : Prop :=
  ∀ s t : State, step s = .next t → t.dout ≠ s.dout →
    (s.phase = .encFinal ∨ s.phase = .decMix ∧ s.rnd.val = 0) ∧ t.phase = .idle ∧ t.dout = t.active ∧
      t.status = { s.status with busy := false, doutValid := true, err := .none }

/-- RK changes only in a KS_SBOX micro-step, one round key at a time (10_state.md R34; 43_key_schedule.md R187). -/
def Obligations.RoundKeysWrittenOnlyBySchedule : Prop :=
  ∀ s t : State, step s = .next t → t.rk ≠ s.rk →
    s.phase = .ksSbox ∧ ∀ k : Fin 33, k ≠ s.group → t.rk.get k = s.rk.get k

/-- KEY_LEN, KEY, DIN and their marks change only by a host write while BUSY = 0, and only one of them at a step
(10_state.md R28, R39, R40; 20_memory.md R61). -/
def Obligations.InputsWrittenOnlyByIdleHost : Prop :=
  ∀ s t : State, step s = .next t →
    t.keyLen ≠ s.keyLen ∨ t.key ≠ s.key ∨ t.din ≠ s.din ∨ t.keyW ≠ s.keyW ∨ t.dinW ≠ s.dinW →
      s.status.busy = false ∧ ∃ g r v rest, s.host = ⟨g, .write (Reg.offset r) 4 v⟩ :: rest ∧
        t = { s with host := rest }.writeReg r v

/-- 10_state.md R24: the layout of STATUS, its reserved bits, its reset value, what a host read of it gives, and writes to it
ignored. The numbers of the codes of ERR are those of R29. That no other code is held is R29's too, and holds here by the type
that the model picks for ERR (DESIGN CHOICE, log 22). The list of host variables that a read fills is the model's form
(log 20). -/
def Obligations.StatusWordLayout : Prop :=
  State.reset.status.word = 0#32 ∧ (∀ t : Status,
    t.word.getLsbD 0 = t.busy ∧ t.word.getLsbD 1 = t.keyValid ∧ t.word.getLsbD 2 = t.doutValid ∧
      t.word.getLsbD 3 = t.protoErr ∧ t.word.extractLsb' 4 4 = 0#4 ∧ t.word.extractLsb' 8 4 = t.err.code ∧
      t.word.extractLsb' 12 20 = 0#20) ∧
    ErrCode.code .none = 0#4 ∧ ErrCode.code .invalidKeyLength = 1#4 ∧ ErrCode.code .keyTooLong = 2#4 ∧
    ErrCode.code .noSchedule = 3#4 ∧ ErrCode.code .illegalCommand = 4#4 ∧
    (∀ t : Status, (t.word.extractLsb' 8 4).toNat < 5) ∧
    ∀ (s : State) (v : Word) (x : Nat),
      HostVars.get x (s.busRead 0x0C#8 4 x).vars = some s.status.word ∧ s.busWrite 0x0C#8 4 v = .next s

/-- The invariant holds after every step from every state that meets it (the variables' form is the model's choice, log 20). -/
def Obligations.StepKeepsInvariant : Prop := ∀ s t : State, s.Inv → step s = .next t → t.Inv

/-- While SET_KEY is in flight, `PW[m] = prekey[STEP + m]` for the padded key it started from (43_key_schedule.md R178), the
groups finished so far stand in RK (R177, R180), and when it ends RK holds that key's round keys (R181, an inference of the spec's
own, and R185). -/
def Obligations.PrekeyWindowTracksRecurrence : Prop :=
  (∀ s t : State, s.Inv → exec .setKey s = .next t → s.phase ≠ .ksStep → t.phase = .ksStep →
    t.Window (padWords s.keyLen.toNat s.key)) ∧
    ∀ (s t : State) (w : Vector Word 8), s.Inv → s.phase = .ksStep ∨ s.phase = .ksSbox → s.Window w →
      step s = .next t →
        (t.phase = .ksStep ∨ t.phase = .ksSbox) ∧ t.Window w ∨
          t.phase = .idle ∧ t.status.keyValid = true ∧ t.rk = roundKeys w

/-- A SET_KEY with a legal length and its key words written ends after its 165 micro-steps, not before, with the schedule of
its key; nothing but the named fields has changed (43_key_schedule.md R181-R183; 44_round_network.md R222). What PW, STEP and
OPC keep after it is the model's (log 15). -/
def Obligations.SetKeyBuildsSchedule : Prop :=
  ∀ s : State, s.phase = .idle → s.status.busy = false → s.faults = [] → s.keyLen.toNat % 4 = 0 → s.keyLen.toNat ≤ 32 →
    (∀ i : Fin 8, i.val < s.keyLen.toNat / 4 → s.keyW.get i = true) → s.host = [cmd 0x1#4] →
      (∀ m, 1 ≤ m → m ≤ 165 →
        ∃ u : State, Host.Core.run core m s = .next u ∧ u.status.busy = true ∧ u.status.keyValid = false) ∧
        ∃ t : State, Host.Core.run core 166 s = .next t ∧ scheduleOf s.keyLen s.key = .keys t.rk ∧
          t = { s with
            status := { s.status with busy := false, keyValid := true, err := .none }, rk := t.rk, pw := t.pw,
            stepIdx := 132, opc := 0x1#4, phase := .idle, host := [] }

/-- An ENCRYPT with a schedule and DIN written ends after its 96 micro-steps, not before, with `Encrypt(DIN)` in DOUT
(44_round_network.md R207, R222). What the banks, ACT, RND and OPC keep after it is the model's (log 15). -/
def Obligations.EncryptRunComputesEncrypt : Prop :=
  ∀ s : State, s.phase = .idle → s.status.busy = false → s.faults = [] → s.status.keyValid = true →
    (∀ i : Fin 4, s.dinW.get i = true) → s.host = [cmd 0x2#4] →
      (∀ m, 1 ≤ m → m ≤ 96 →
        ∃ u : State, Host.Core.run core m s = .next u ∧ u.status.busy = true ∧ u.dout = s.dout) ∧
        ∃ t : State, Host.Core.run core 97 s = .next t ∧
          t = { s with
            status := { s.status with busy := false, doutValid := true, err := .none },
            dout := encryptBlock s.rk s.din, bankA := encryptBlock s.rk s.din, bankB := t.bankB, act := .a, rnd := 31,
            opc := 0x2#4, phase := .idle, host := [] }

/-- A DECRYPT with a schedule and DIN written ends after its 96 micro-steps, not before, with `Decrypt(DIN)` in DOUT
(44_round_network.md R215, R222). What the banks, ACT, RND and OPC keep after it is the model's (log 15). -/
def Obligations.DecryptRunComputesDecrypt : Prop :=
  ∀ s : State, s.phase = .idle → s.status.busy = false → s.faults = [] → s.status.keyValid = true →
    (∀ i : Fin 4, s.dinW.get i = true) → s.host = [cmd 0x3#4] →
      (∀ m, 1 ≤ m → m ≤ 96 →
        ∃ u : State, Host.Core.run core m s = .next u ∧ u.status.busy = true ∧ u.dout = s.dout) ∧
        ∃ t : State, Host.Core.run core 97 s = .next t ∧
          t = { s with
            status := { s.status with busy := false, doutValid := true, err := .none },
            dout := decryptBlock s.rk s.din, bankA := decryptBlock s.rk s.din, bankB := t.bankB, act := .a, rnd := 0,
            opc := 0x3#4, phase := .idle, host := [] }

/-- 44_round_network.md R209: under every schedule, decryption inverts encryption, and the reverse. -/
def Obligations.DecryptInvertsEncrypt : Prop :=
  ∀ (rk : Vector Quad 33) (q : Quad),
    decryptBlock rk (encryptBlock rk q) = q ∧ encryptBlock rk (decryptBlock rk q) = q

/-- 44_round_network.md R210, R216: the known-answer vector, in both directions. -/
def Obligations.KnownAnswerVector : Prop :=
  let kb : List Byte := (List.range 32).map (BitVec.ofNat 8)
  let rk := roundKeys (padWords 32 (Vector.ofFn fun i : Fin 8 => le32 kb i.val))
  let p := packBlock (kb.take 16)
  let c : Quad := ⟨0xF89F26DE#32, 0xB832E433#32, 0xD2882E5B#32, 0x5CE71C70#32⟩
  p = ⟨0x03020100#32, 0x07060504#32, 0x0B0A0908#32, 0x0F0E0D0C#32⟩ ∧
    encryptBlock rk p = c ∧ decryptBlock rk c = p ∧
    blockBytes c = [0xDE#8, 0x26#8, 0x9F#8, 0xF8#8, 0x33#8, 0xE4#8, 0x32#8, 0xB8#8,
      0x5B#8, 0x2E#8, 0x88#8, 0xD2#8, 0x70#8, 0x1C#8, 0xE7#8, 0x5C#8]

/-- States that differ only in what the rules leave unspecified take steps that a host cannot tell apart, as long as no
fault is recorded: nothing observed rests on the reset values the model names (log 6). -/
def Obligations.UnspecifiedStateUnobservable : Prop :=
  ∀ s t : State, s.Inv → t.Inv → s.Alike t →
    (∀ s', step s = .next s' → ∃ t', step t = .next t' ∧ s'.faults = t'.faults ∧ (s'.faults = [] → s'.Alike t')) ∧
      ∀ f, step s = .fault f → step t = .fault f

/-- The controller's sequence does not depend on data: two states with the same PHASE, STEP, RND and ACT go on with the same
(44_round_network.md R219; 70_reset_and_hazards.md R291). -/
def Obligations.SequencingIgnoresData : Prop :=
  ∀ s t s' : State, s.phase = t.phase → s.stepIdx = t.stepIdx → s.rnd = t.rnd → s.act = t.act → s.coreStep = .next s' →
    ∃ t', t.coreStep = .next t' ∧ s'.phase = t'.phase ∧ s'.stepIdx = t'.stepIdx ∧ s'.rnd = t'.rnd ∧ s'.act = t'.act
end

