-- ==== Sys2Proof/Laws/PerInstr.lean ====
section
/-! SUPPORT. Per instruction: its command word, where it has one, decodes to it (30_encoding.md R72, R75, R76). -/

/-- Every word that encodes the instruction decodes to it. -/
def Sys2Proof.Laws.RoundTrip.Statement (i : Sys2Proof.Instr) : Prop :=
  ∀ w : Sys2Proof.Word, Sys2Proof.encode i = some w → Sys2Proof.decodeWord w = .instr i

namespace Sys2Proof.Laws.RoundTrip

theorem nop : Statement .nop := by
  intro w h
  cases h
  rfl

theorem setKey : Statement .setKey := by
  intro w h
  cases h
  rfl

theorem encrypt : Statement .encrypt := by
  intro w h
  cases h
  rfl

theorem decrypt : Statement .decrypt := by
  intro w h
  cases h
  rfl

theorem rotl32 (x : Word) (n : Nat) : Statement (.rotl32 x n) := by
  intro w h
  cases h

theorem rotr32 (x : Word) (n : Nat) : Statement (.rotr32 x n) := by
  intro w h
  cases h

theorem shl32 (x : Word) (n : Fin 32) : Statement (.shl32 x n) := by
  intro w h
  cases h

theorem bswap32 (x : Word) : Statement (.bswap32 x) := by
  intro w h
  cases h

theorem s0 : Statement .s0 := by
  intro w h
  cases h

theorem s1 : Statement .s1 := by
  intro w h
  cases h

theorem s2 : Statement .s2 := by
  intro w h
  cases h

theorem s3 : Statement .s3 := by
  intro w h
  cases h

theorem s4 : Statement .s4 := by
  intro w h
  cases h

theorem s5 : Statement .s5 := by
  intro w h
  cases h

theorem s6 : Statement .s6 := by
  intro w h
  cases h

theorem s7 : Statement .s7 := by
  intro w h
  cases h

theorem i0 : Statement .i0 := by
  intro w h
  cases h

theorem i1 : Statement .i1 := by
  intro w h
  cases h

theorem i2 : Statement .i2 := by
  intro w h
  cases h

theorem i3 : Statement .i3 := by
  intro w h
  cases h

theorem i4 : Statement .i4 := by
  intro w h
  cases h

theorem i5 : Statement .i5 := by
  intro w h
  cases h

theorem i6 : Statement .i6 := by
  intro w h
  cases h

theorem i7 : Statement .i7 := by
  intro w h
  cases h

theorem lt : Statement .lt := by
  intro w h
  cases h

theorem ilt : Statement .ilt := by
  intro w h
  cases h

theorem keymix (k : Fin 33) : Statement (.keymix k) := by
  intro w h
  cases h

theorem ksPad : Statement .ksPad := by
  intro w h
  cases h

theorem ksStep : Statement .ksStep := by
  intro w h
  cases h

theorem ksSbox (k : Fin 33) : Statement (.ksSbox k) := by
  intro w h
  cases h

end Sys2Proof.Laws.RoundTrip
end

