-- ==== Sys2Proof/Laws/State.lean ====
section
/-! SUPPORT. What each named update of the state leaves alone and what it writes, one lemma per field. -/

namespace Sys2Proof.Machine

@[simp] theorem State.raise_status (s : State) (f : Fault) : (s.raise f).status = s.status := rfl
@[simp] theorem State.raise_keyLen (s : State) (f : Fault) : (s.raise f).keyLen = s.keyLen := rfl
@[simp] theorem State.raise_key (s : State) (f : Fault) : (s.raise f).key = s.key := rfl
@[simp] theorem State.raise_din (s : State) (f : Fault) : (s.raise f).din = s.din := rfl
@[simp] theorem State.raise_dout (s : State) (f : Fault) : (s.raise f).dout = s.dout := rfl
@[simp] theorem State.raise_rk (s : State) (f : Fault) : (s.raise f).rk = s.rk := rfl
@[simp] theorem State.raise_bankA (s : State) (f : Fault) : (s.raise f).bankA = s.bankA := rfl
@[simp] theorem State.raise_bankB (s : State) (f : Fault) : (s.raise f).bankB = s.bankB := rfl
@[simp] theorem State.raise_pw (s : State) (f : Fault) : (s.raise f).pw = s.pw := rfl
@[simp] theorem State.raise_phase (s : State) (f : Fault) : (s.raise f).phase = s.phase := rfl
@[simp] theorem State.raise_opc (s : State) (f : Fault) : (s.raise f).opc = s.opc := rfl
@[simp] theorem State.raise_rnd (s : State) (f : Fault) : (s.raise f).rnd = s.rnd := rfl
@[simp] theorem State.raise_stepIdx (s : State) (f : Fault) : (s.raise f).stepIdx = s.stepIdx := rfl
@[simp] theorem State.raise_act (s : State) (f : Fault) : (s.raise f).act = s.act := rfl
@[simp] theorem State.raise_keyW (s : State) (f : Fault) : (s.raise f).keyW = s.keyW := rfl
@[simp] theorem State.raise_dinW (s : State) (f : Fault) : (s.raise f).dinW = s.dinW := rfl
@[simp] theorem State.raise_host (s : State) (f : Fault) : (s.raise f).host = s.host := rfl
@[simp] theorem State.raise_vars (s : State) (f : Fault) : (s.raise f).vars = s.vars := rfl
@[simp] theorem State.raise_primOut (s : State) (f : Fault) : (s.raise f).primOut = s.primOut := rfl

@[simp] theorem State.complete_status (s : State) (e : ErrCode) : (s.complete e).status = { s.status with busy := false, err := e } := rfl
@[simp] theorem State.complete_keyLen (s : State) (e : ErrCode) : (s.complete e).keyLen = s.keyLen := rfl
@[simp] theorem State.complete_key (s : State) (e : ErrCode) : (s.complete e).key = s.key := rfl
@[simp] theorem State.complete_din (s : State) (e : ErrCode) : (s.complete e).din = s.din := rfl
@[simp] theorem State.complete_dout (s : State) (e : ErrCode) : (s.complete e).dout = s.dout := rfl
@[simp] theorem State.complete_rk (s : State) (e : ErrCode) : (s.complete e).rk = s.rk := rfl
@[simp] theorem State.complete_bankA (s : State) (e : ErrCode) : (s.complete e).bankA = s.bankA := rfl
@[simp] theorem State.complete_bankB (s : State) (e : ErrCode) : (s.complete e).bankB = s.bankB := rfl
@[simp] theorem State.complete_pw (s : State) (e : ErrCode) : (s.complete e).pw = s.pw := rfl
@[simp] theorem State.complete_phase (s : State) (e : ErrCode) : (s.complete e).phase = s.phase := rfl
@[simp] theorem State.complete_opc (s : State) (e : ErrCode) : (s.complete e).opc = s.opc := rfl
@[simp] theorem State.complete_rnd (s : State) (e : ErrCode) : (s.complete e).rnd = s.rnd := rfl
@[simp] theorem State.complete_stepIdx (s : State) (e : ErrCode) : (s.complete e).stepIdx = s.stepIdx := rfl
@[simp] theorem State.complete_act (s : State) (e : ErrCode) : (s.complete e).act = s.act := rfl
@[simp] theorem State.complete_faults (s : State) (e : ErrCode) : (s.complete e).faults = s.faults := rfl
@[simp] theorem State.complete_keyW (s : State) (e : ErrCode) : (s.complete e).keyW = s.keyW := rfl
@[simp] theorem State.complete_dinW (s : State) (e : ErrCode) : (s.complete e).dinW = s.dinW := rfl
@[simp] theorem State.complete_host (s : State) (e : ErrCode) : (s.complete e).host = s.host := rfl
@[simp] theorem State.complete_vars (s : State) (e : ErrCode) : (s.complete e).vars = s.vars := rfl
@[simp] theorem State.complete_primOut (s : State) (e : ErrCode) : (s.complete e).primOut = s.primOut := rfl

@[simp] theorem State.setVar_status (s : State) (x : Nat) (v : Word) : (s.setVar x v).status = s.status := rfl
@[simp] theorem State.setVar_keyLen (s : State) (x : Nat) (v : Word) : (s.setVar x v).keyLen = s.keyLen := rfl
@[simp] theorem State.setVar_key (s : State) (x : Nat) (v : Word) : (s.setVar x v).key = s.key := rfl
@[simp] theorem State.setVar_din (s : State) (x : Nat) (v : Word) : (s.setVar x v).din = s.din := rfl
@[simp] theorem State.setVar_dout (s : State) (x : Nat) (v : Word) : (s.setVar x v).dout = s.dout := rfl
@[simp] theorem State.setVar_rk (s : State) (x : Nat) (v : Word) : (s.setVar x v).rk = s.rk := rfl
@[simp] theorem State.setVar_bankA (s : State) (x : Nat) (v : Word) : (s.setVar x v).bankA = s.bankA := rfl
@[simp] theorem State.setVar_bankB (s : State) (x : Nat) (v : Word) : (s.setVar x v).bankB = s.bankB := rfl
@[simp] theorem State.setVar_pw (s : State) (x : Nat) (v : Word) : (s.setVar x v).pw = s.pw := rfl
@[simp] theorem State.setVar_phase (s : State) (x : Nat) (v : Word) : (s.setVar x v).phase = s.phase := rfl
@[simp] theorem State.setVar_opc (s : State) (x : Nat) (v : Word) : (s.setVar x v).opc = s.opc := rfl
@[simp] theorem State.setVar_rnd (s : State) (x : Nat) (v : Word) : (s.setVar x v).rnd = s.rnd := rfl
@[simp] theorem State.setVar_stepIdx (s : State) (x : Nat) (v : Word) : (s.setVar x v).stepIdx = s.stepIdx := rfl
@[simp] theorem State.setVar_act (s : State) (x : Nat) (v : Word) : (s.setVar x v).act = s.act := rfl
@[simp] theorem State.setVar_faults (s : State) (x : Nat) (v : Word) : (s.setVar x v).faults = s.faults := rfl
@[simp] theorem State.setVar_keyW (s : State) (x : Nat) (v : Word) : (s.setVar x v).keyW = s.keyW := rfl
@[simp] theorem State.setVar_dinW (s : State) (x : Nat) (v : Word) : (s.setVar x v).dinW = s.dinW := rfl
@[simp] theorem State.setVar_host (s : State) (x : Nat) (v : Word) : (s.setVar x v).host = s.host := rfl
@[simp] theorem State.setVar_vars (s : State) (x : Nat) (v : Word) : (s.setVar x v).vars = HostVars.set x v s.vars := rfl
@[simp] theorem State.setVar_primOut (s : State) (x : Nat) (v : Word) : (s.setVar x v).primOut = s.primOut := rfl

@[simp] theorem State.output_status (s : State) (w : Word) : (s.output w).status = s.status := rfl
@[simp] theorem State.output_keyLen (s : State) (w : Word) : (s.output w).keyLen = s.keyLen := rfl
@[simp] theorem State.output_key (s : State) (w : Word) : (s.output w).key = s.key := rfl
@[simp] theorem State.output_din (s : State) (w : Word) : (s.output w).din = s.din := rfl
@[simp] theorem State.output_dout (s : State) (w : Word) : (s.output w).dout = s.dout := rfl
@[simp] theorem State.output_rk (s : State) (w : Word) : (s.output w).rk = s.rk := rfl
@[simp] theorem State.output_bankA (s : State) (w : Word) : (s.output w).bankA = s.bankA := rfl
@[simp] theorem State.output_bankB (s : State) (w : Word) : (s.output w).bankB = s.bankB := rfl
@[simp] theorem State.output_pw (s : State) (w : Word) : (s.output w).pw = s.pw := rfl
@[simp] theorem State.output_phase (s : State) (w : Word) : (s.output w).phase = s.phase := rfl
@[simp] theorem State.output_opc (s : State) (w : Word) : (s.output w).opc = s.opc := rfl
@[simp] theorem State.output_rnd (s : State) (w : Word) : (s.output w).rnd = s.rnd := rfl
@[simp] theorem State.output_stepIdx (s : State) (w : Word) : (s.output w).stepIdx = s.stepIdx := rfl
@[simp] theorem State.output_act (s : State) (w : Word) : (s.output w).act = s.act := rfl
@[simp] theorem State.output_faults (s : State) (w : Word) : (s.output w).faults = s.faults := rfl
@[simp] theorem State.output_keyW (s : State) (w : Word) : (s.output w).keyW = s.keyW := rfl
@[simp] theorem State.output_dinW (s : State) (w : Word) : (s.output w).dinW = s.dinW := rfl
@[simp] theorem State.output_host (s : State) (w : Word) : (s.output w).host = s.host := rfl
@[simp] theorem State.output_vars (s : State) (w : Word) : (s.output w).vars = s.vars := rfl
@[simp] theorem State.output_primOut (s : State) (w : Word) : (s.output w).primOut = w := rfl

@[simp] theorem State.busyWrite_status (s : State) (r : Reg) (v : Word) : (s.busyWrite r v).status = { s.status with protoErr := true } := rfl
@[simp] theorem State.busyWrite_keyLen (s : State) (r : Reg) (v : Word) : (s.busyWrite r v).keyLen = s.keyLen := rfl
@[simp] theorem State.busyWrite_key (s : State) (r : Reg) (v : Word) : (s.busyWrite r v).key = s.key := rfl
@[simp] theorem State.busyWrite_din (s : State) (r : Reg) (v : Word) : (s.busyWrite r v).din = s.din := rfl
@[simp] theorem State.busyWrite_dout (s : State) (r : Reg) (v : Word) : (s.busyWrite r v).dout = s.dout := rfl
@[simp] theorem State.busyWrite_rk (s : State) (r : Reg) (v : Word) : (s.busyWrite r v).rk = s.rk := rfl
@[simp] theorem State.busyWrite_bankA (s : State) (r : Reg) (v : Word) : (s.busyWrite r v).bankA = s.bankA := rfl
@[simp] theorem State.busyWrite_bankB (s : State) (r : Reg) (v : Word) : (s.busyWrite r v).bankB = s.bankB := rfl
@[simp] theorem State.busyWrite_pw (s : State) (r : Reg) (v : Word) : (s.busyWrite r v).pw = s.pw := rfl
@[simp] theorem State.busyWrite_phase (s : State) (r : Reg) (v : Word) : (s.busyWrite r v).phase = s.phase := rfl
@[simp] theorem State.busyWrite_opc (s : State) (r : Reg) (v : Word) : (s.busyWrite r v).opc = s.opc := rfl
@[simp] theorem State.busyWrite_rnd (s : State) (r : Reg) (v : Word) : (s.busyWrite r v).rnd = s.rnd := rfl
@[simp] theorem State.busyWrite_stepIdx (s : State) (r : Reg) (v : Word) : (s.busyWrite r v).stepIdx = s.stepIdx := rfl
@[simp] theorem State.busyWrite_act (s : State) (r : Reg) (v : Word) : (s.busyWrite r v).act = s.act := rfl
@[simp] theorem State.busyWrite_keyW (s : State) (r : Reg) (v : Word) : (s.busyWrite r v).keyW = s.keyW := rfl
@[simp] theorem State.busyWrite_dinW (s : State) (r : Reg) (v : Word) : (s.busyWrite r v).dinW = s.dinW := rfl
@[simp] theorem State.busyWrite_host (s : State) (r : Reg) (v : Word) : (s.busyWrite r v).host = s.host := rfl
@[simp] theorem State.busyWrite_vars (s : State) (r : Reg) (v : Word) : (s.busyWrite r v).vars = s.vars := rfl
@[simp] theorem State.busyWrite_primOut (s : State) (r : Reg) (v : Word) : (s.busyWrite r v).primOut = s.primOut := rfl

@[simp] theorem State.noSchedule_status (s : State) : s.noSchedule.status = { s.status with busy := false, err := .noSchedule } := rfl
@[simp] theorem State.noSchedule_keyLen (s : State) : s.noSchedule.keyLen = s.keyLen := rfl
@[simp] theorem State.noSchedule_key (s : State) : s.noSchedule.key = s.key := rfl
@[simp] theorem State.noSchedule_din (s : State) : s.noSchedule.din = s.din := rfl
@[simp] theorem State.noSchedule_dout (s : State) : s.noSchedule.dout = s.dout := rfl
@[simp] theorem State.noSchedule_rk (s : State) : s.noSchedule.rk = s.rk := rfl
@[simp] theorem State.noSchedule_bankA (s : State) : s.noSchedule.bankA = s.bankA := rfl
@[simp] theorem State.noSchedule_bankB (s : State) : s.noSchedule.bankB = s.bankB := rfl
@[simp] theorem State.noSchedule_pw (s : State) : s.noSchedule.pw = s.pw := rfl
@[simp] theorem State.noSchedule_phase (s : State) : s.noSchedule.phase = s.phase := rfl
@[simp] theorem State.noSchedule_opc (s : State) : s.noSchedule.opc = s.opc := rfl
@[simp] theorem State.noSchedule_rnd (s : State) : s.noSchedule.rnd = s.rnd := rfl
@[simp] theorem State.noSchedule_stepIdx (s : State) : s.noSchedule.stepIdx = s.stepIdx := rfl
@[simp] theorem State.noSchedule_act (s : State) : s.noSchedule.act = s.act := rfl
@[simp] theorem State.noSchedule_keyW (s : State) : s.noSchedule.keyW = s.keyW := rfl
@[simp] theorem State.noSchedule_dinW (s : State) : s.noSchedule.dinW = s.dinW := rfl
@[simp] theorem State.noSchedule_host (s : State) : s.noSchedule.host = s.host := rfl
@[simp] theorem State.noSchedule_vars (s : State) : s.noSchedule.vars = s.vars := rfl
@[simp] theorem State.noSchedule_primOut (s : State) : s.noSchedule.primOut = s.primOut := rfl

@[simp] theorem State.finishBlock_status (s : State) : s.finishBlock.status = { s.status with busy := false, doutValid := true, err := .none } := rfl
@[simp] theorem State.finishBlock_keyLen (s : State) : s.finishBlock.keyLen = s.keyLen := rfl
@[simp] theorem State.finishBlock_key (s : State) : s.finishBlock.key = s.key := rfl
@[simp] theorem State.finishBlock_din (s : State) : s.finishBlock.din = s.din := rfl
@[simp] theorem State.finishBlock_dout (s : State) : s.finishBlock.dout = s.active := rfl
@[simp] theorem State.finishBlock_rk (s : State) : s.finishBlock.rk = s.rk := rfl
@[simp] theorem State.finishBlock_bankA (s : State) : s.finishBlock.bankA = s.bankA := rfl
@[simp] theorem State.finishBlock_bankB (s : State) : s.finishBlock.bankB = s.bankB := rfl
@[simp] theorem State.finishBlock_pw (s : State) : s.finishBlock.pw = s.pw := rfl
@[simp] theorem State.finishBlock_phase (s : State) : s.finishBlock.phase = .idle := rfl
@[simp] theorem State.finishBlock_opc (s : State) : s.finishBlock.opc = s.opc := rfl
@[simp] theorem State.finishBlock_rnd (s : State) : s.finishBlock.rnd = s.rnd := rfl
@[simp] theorem State.finishBlock_stepIdx (s : State) : s.finishBlock.stepIdx = s.stepIdx := rfl
@[simp] theorem State.finishBlock_act (s : State) : s.finishBlock.act = s.act := rfl
@[simp] theorem State.finishBlock_faults (s : State) : s.finishBlock.faults = s.faults := rfl
@[simp] theorem State.finishBlock_keyW (s : State) : s.finishBlock.keyW = s.keyW := rfl
@[simp] theorem State.finishBlock_dinW (s : State) : s.finishBlock.dinW = s.dinW := rfl
@[simp] theorem State.finishBlock_host (s : State) : s.finishBlock.host = s.host := rfl
@[simp] theorem State.finishBlock_vars (s : State) : s.finishBlock.vars = s.vars := rfl
@[simp] theorem State.finishBlock_primOut (s : State) : s.finishBlock.primOut = s.primOut := rfl

@[simp] theorem State.finishKey_status (s : State) : s.finishKey.status = { s.status with busy := false, keyValid := true, err := .none } := rfl
@[simp] theorem State.finishKey_keyLen (s : State) : s.finishKey.keyLen = s.keyLen := rfl
@[simp] theorem State.finishKey_key (s : State) : s.finishKey.key = s.key := rfl
@[simp] theorem State.finishKey_din (s : State) : s.finishKey.din = s.din := rfl
@[simp] theorem State.finishKey_dout (s : State) : s.finishKey.dout = s.dout := rfl
@[simp] theorem State.finishKey_rk (s : State) : s.finishKey.rk = s.rk := rfl
@[simp] theorem State.finishKey_bankA (s : State) : s.finishKey.bankA = s.bankA := rfl
@[simp] theorem State.finishKey_bankB (s : State) : s.finishKey.bankB = s.bankB := rfl
@[simp] theorem State.finishKey_pw (s : State) : s.finishKey.pw = s.pw := rfl
@[simp] theorem State.finishKey_phase (s : State) : s.finishKey.phase = .idle := rfl
@[simp] theorem State.finishKey_opc (s : State) : s.finishKey.opc = s.opc := rfl
@[simp] theorem State.finishKey_rnd (s : State) : s.finishKey.rnd = s.rnd := rfl
@[simp] theorem State.finishKey_stepIdx (s : State) : s.finishKey.stepIdx = s.stepIdx := rfl
@[simp] theorem State.finishKey_act (s : State) : s.finishKey.act = s.act := rfl
@[simp] theorem State.finishKey_faults (s : State) : s.finishKey.faults = s.faults := rfl
@[simp] theorem State.finishKey_keyW (s : State) : s.finishKey.keyW = s.keyW := rfl
@[simp] theorem State.finishKey_dinW (s : State) : s.finishKey.dinW = s.dinW := rfl
@[simp] theorem State.finishKey_host (s : State) : s.finishKey.host = s.host := rfl
@[simp] theorem State.finishKey_vars (s : State) : s.finishKey.vars = s.vars := rfl
@[simp] theorem State.finishKey_primOut (s : State) : s.finishKey.primOut = s.primOut := rfl

@[simp] theorem State.raiseAll_status (s : State) (fs : List Fault) : (s.raiseAll fs).status = s.status := by
  induction fs generalizing s with
  | nil => rfl
  | cons f fs ih => exact ih (s.raise f)
@[simp] theorem State.raiseAll_keyLen (s : State) (fs : List Fault) : (s.raiseAll fs).keyLen = s.keyLen := by
  induction fs generalizing s with
  | nil => rfl
  | cons f fs ih => exact ih (s.raise f)
@[simp] theorem State.raiseAll_key (s : State) (fs : List Fault) : (s.raiseAll fs).key = s.key := by
  induction fs generalizing s with
  | nil => rfl
  | cons f fs ih => exact ih (s.raise f)
@[simp] theorem State.raiseAll_din (s : State) (fs : List Fault) : (s.raiseAll fs).din = s.din := by
  induction fs generalizing s with
  | nil => rfl
  | cons f fs ih => exact ih (s.raise f)
@[simp] theorem State.raiseAll_dout (s : State) (fs : List Fault) : (s.raiseAll fs).dout = s.dout := by
  induction fs generalizing s with
  | nil => rfl
  | cons f fs ih => exact ih (s.raise f)
@[simp] theorem State.raiseAll_rk (s : State) (fs : List Fault) : (s.raiseAll fs).rk = s.rk := by
  induction fs generalizing s with
  | nil => rfl
  | cons f fs ih => exact ih (s.raise f)
@[simp] theorem State.raiseAll_bankA (s : State) (fs : List Fault) : (s.raiseAll fs).bankA = s.bankA := by
  induction fs generalizing s with
  | nil => rfl
  | cons f fs ih => exact ih (s.raise f)
@[simp] theorem State.raiseAll_bankB (s : State) (fs : List Fault) : (s.raiseAll fs).bankB = s.bankB := by
  induction fs generalizing s with
  | nil => rfl
  | cons f fs ih => exact ih (s.raise f)
@[simp] theorem State.raiseAll_pw (s : State) (fs : List Fault) : (s.raiseAll fs).pw = s.pw := by
  induction fs generalizing s with
  | nil => rfl
  | cons f fs ih => exact ih (s.raise f)
@[simp] theorem State.raiseAll_phase (s : State) (fs : List Fault) : (s.raiseAll fs).phase = s.phase := by
  induction fs generalizing s with
  | nil => rfl
  | cons f fs ih => exact ih (s.raise f)
@[simp] theorem State.raiseAll_opc (s : State) (fs : List Fault) : (s.raiseAll fs).opc = s.opc := by
  induction fs generalizing s with
  | nil => rfl
  | cons f fs ih => exact ih (s.raise f)
@[simp] theorem State.raiseAll_rnd (s : State) (fs : List Fault) : (s.raiseAll fs).rnd = s.rnd := by
  induction fs generalizing s with
  | nil => rfl
  | cons f fs ih => exact ih (s.raise f)
@[simp] theorem State.raiseAll_stepIdx (s : State) (fs : List Fault) : (s.raiseAll fs).stepIdx = s.stepIdx := by
  induction fs generalizing s with
  | nil => rfl
  | cons f fs ih => exact ih (s.raise f)
@[simp] theorem State.raiseAll_act (s : State) (fs : List Fault) : (s.raiseAll fs).act = s.act := by
  induction fs generalizing s with
  | nil => rfl
  | cons f fs ih => exact ih (s.raise f)
@[simp] theorem State.raiseAll_keyW (s : State) (fs : List Fault) : (s.raiseAll fs).keyW = s.keyW := by
  induction fs generalizing s with
  | nil => rfl
  | cons f fs ih => exact ih (s.raise f)
@[simp] theorem State.raiseAll_dinW (s : State) (fs : List Fault) : (s.raiseAll fs).dinW = s.dinW := by
  induction fs generalizing s with
  | nil => rfl
  | cons f fs ih => exact ih (s.raise f)
@[simp] theorem State.raiseAll_host (s : State) (fs : List Fault) : (s.raiseAll fs).host = s.host := by
  induction fs generalizing s with
  | nil => rfl
  | cons f fs ih => exact ih (s.raise f)
@[simp] theorem State.raiseAll_vars (s : State) (fs : List Fault) : (s.raiseAll fs).vars = s.vars := by
  induction fs generalizing s with
  | nil => rfl
  | cons f fs ih => exact ih (s.raise f)
@[simp] theorem State.raiseAll_primOut (s : State) (fs : List Fault) : (s.raiseAll fs).primOut = s.primOut := by
  induction fs generalizing s with
  | nil => rfl
  | cons f fs ih => exact ih (s.raise f)

@[simp] theorem State.setBank_status (s : State) (x : Bank) (q : Quad) : (s.setBank x q).status = s.status := by cases x <;> rfl
@[simp] theorem State.setBank_keyLen (s : State) (x : Bank) (q : Quad) : (s.setBank x q).keyLen = s.keyLen := by cases x <;> rfl
@[simp] theorem State.setBank_key (s : State) (x : Bank) (q : Quad) : (s.setBank x q).key = s.key := by cases x <;> rfl
@[simp] theorem State.setBank_din (s : State) (x : Bank) (q : Quad) : (s.setBank x q).din = s.din := by cases x <;> rfl
@[simp] theorem State.setBank_dout (s : State) (x : Bank) (q : Quad) : (s.setBank x q).dout = s.dout := by cases x <;> rfl
@[simp] theorem State.setBank_rk (s : State) (x : Bank) (q : Quad) : (s.setBank x q).rk = s.rk := by cases x <;> rfl
@[simp] theorem State.setBank_pw (s : State) (x : Bank) (q : Quad) : (s.setBank x q).pw = s.pw := by cases x <;> rfl
@[simp] theorem State.setBank_phase (s : State) (x : Bank) (q : Quad) : (s.setBank x q).phase = s.phase := by cases x <;> rfl
@[simp] theorem State.setBank_opc (s : State) (x : Bank) (q : Quad) : (s.setBank x q).opc = s.opc := by cases x <;> rfl
@[simp] theorem State.setBank_rnd (s : State) (x : Bank) (q : Quad) : (s.setBank x q).rnd = s.rnd := by cases x <;> rfl
@[simp] theorem State.setBank_stepIdx (s : State) (x : Bank) (q : Quad) : (s.setBank x q).stepIdx = s.stepIdx := by cases x <;> rfl
@[simp] theorem State.setBank_act (s : State) (x : Bank) (q : Quad) : (s.setBank x q).act = s.act := by cases x <;> rfl
@[simp] theorem State.setBank_faults (s : State) (x : Bank) (q : Quad) : (s.setBank x q).faults = s.faults := by cases x <;> rfl
@[simp] theorem State.setBank_keyW (s : State) (x : Bank) (q : Quad) : (s.setBank x q).keyW = s.keyW := by cases x <;> rfl
@[simp] theorem State.setBank_dinW (s : State) (x : Bank) (q : Quad) : (s.setBank x q).dinW = s.dinW := by cases x <;> rfl
@[simp] theorem State.setBank_host (s : State) (x : Bank) (q : Quad) : (s.setBank x q).host = s.host := by cases x <;> rfl
@[simp] theorem State.setBank_vars (s : State) (x : Bank) (q : Quad) : (s.setBank x q).vars = s.vars := by cases x <;> rfl
@[simp] theorem State.setBank_primOut (s : State) (x : Bank) (q : Quad) : (s.setBank x q).primOut = s.primOut := by cases x <;> rfl

@[simp] theorem State.inPlace_status (s : State) (g : Quad → Quad) : (s.inPlace g).status = s.status := s.setBank_status _ _
@[simp] theorem State.inPlace_keyLen (s : State) (g : Quad → Quad) : (s.inPlace g).keyLen = s.keyLen := s.setBank_keyLen _ _
@[simp] theorem State.inPlace_key (s : State) (g : Quad → Quad) : (s.inPlace g).key = s.key := s.setBank_key _ _
@[simp] theorem State.inPlace_din (s : State) (g : Quad → Quad) : (s.inPlace g).din = s.din := s.setBank_din _ _
@[simp] theorem State.inPlace_dout (s : State) (g : Quad → Quad) : (s.inPlace g).dout = s.dout := s.setBank_dout _ _
@[simp] theorem State.inPlace_rk (s : State) (g : Quad → Quad) : (s.inPlace g).rk = s.rk := s.setBank_rk _ _
@[simp] theorem State.inPlace_pw (s : State) (g : Quad → Quad) : (s.inPlace g).pw = s.pw := s.setBank_pw _ _
@[simp] theorem State.inPlace_phase (s : State) (g : Quad → Quad) : (s.inPlace g).phase = s.phase := s.setBank_phase _ _
@[simp] theorem State.inPlace_opc (s : State) (g : Quad → Quad) : (s.inPlace g).opc = s.opc := s.setBank_opc _ _
@[simp] theorem State.inPlace_rnd (s : State) (g : Quad → Quad) : (s.inPlace g).rnd = s.rnd := s.setBank_rnd _ _
@[simp] theorem State.inPlace_stepIdx (s : State) (g : Quad → Quad) : (s.inPlace g).stepIdx = s.stepIdx := s.setBank_stepIdx _ _
@[simp] theorem State.inPlace_act (s : State) (g : Quad → Quad) : (s.inPlace g).act = s.act := s.setBank_act _ _
@[simp] theorem State.inPlace_faults (s : State) (g : Quad → Quad) : (s.inPlace g).faults = s.faults := s.setBank_faults _ _
@[simp] theorem State.inPlace_keyW (s : State) (g : Quad → Quad) : (s.inPlace g).keyW = s.keyW := s.setBank_keyW _ _
@[simp] theorem State.inPlace_dinW (s : State) (g : Quad → Quad) : (s.inPlace g).dinW = s.dinW := s.setBank_dinW _ _
@[simp] theorem State.inPlace_host (s : State) (g : Quad → Quad) : (s.inPlace g).host = s.host := s.setBank_host _ _
@[simp] theorem State.inPlace_vars (s : State) (g : Quad → Quad) : (s.inPlace g).vars = s.vars := s.setBank_vars _ _
@[simp] theorem State.inPlace_primOut (s : State) (g : Quad → Quad) : (s.inPlace g).primOut = s.primOut := s.setBank_primOut _ _

@[simp] theorem State.across_status (s : State) (g : Quad → Quad) : (s.across g).status = s.status := s.setBank_status _ _
@[simp] theorem State.across_keyLen (s : State) (g : Quad → Quad) : (s.across g).keyLen = s.keyLen := s.setBank_keyLen _ _
@[simp] theorem State.across_key (s : State) (g : Quad → Quad) : (s.across g).key = s.key := s.setBank_key _ _
@[simp] theorem State.across_din (s : State) (g : Quad → Quad) : (s.across g).din = s.din := s.setBank_din _ _
@[simp] theorem State.across_dout (s : State) (g : Quad → Quad) : (s.across g).dout = s.dout := s.setBank_dout _ _
@[simp] theorem State.across_rk (s : State) (g : Quad → Quad) : (s.across g).rk = s.rk := s.setBank_rk _ _
@[simp] theorem State.across_pw (s : State) (g : Quad → Quad) : (s.across g).pw = s.pw := s.setBank_pw _ _
@[simp] theorem State.across_phase (s : State) (g : Quad → Quad) : (s.across g).phase = s.phase := s.setBank_phase _ _
@[simp] theorem State.across_opc (s : State) (g : Quad → Quad) : (s.across g).opc = s.opc := s.setBank_opc _ _
@[simp] theorem State.across_rnd (s : State) (g : Quad → Quad) : (s.across g).rnd = s.rnd := s.setBank_rnd _ _
@[simp] theorem State.across_stepIdx (s : State) (g : Quad → Quad) : (s.across g).stepIdx = s.stepIdx := s.setBank_stepIdx _ _
@[simp] theorem State.across_faults (s : State) (g : Quad → Quad) : (s.across g).faults = s.faults := s.setBank_faults _ _
@[simp] theorem State.across_keyW (s : State) (g : Quad → Quad) : (s.across g).keyW = s.keyW := s.setBank_keyW _ _
@[simp] theorem State.across_dinW (s : State) (g : Quad → Quad) : (s.across g).dinW = s.dinW := s.setBank_dinW _ _
@[simp] theorem State.across_host (s : State) (g : Quad → Quad) : (s.across g).host = s.host := s.setBank_host _ _
@[simp] theorem State.across_vars (s : State) (g : Quad → Quad) : (s.across g).vars = s.vars := s.setBank_vars _ _
@[simp] theorem State.across_primOut (s : State) (g : Quad → Quad) : (s.across g).primOut = s.primOut := s.setBank_primOut _ _
@[simp] theorem State.across_act (s : State) (g : Quad → Quad) : (s.across g).act = s.act.other := rfl

@[simp] theorem State.spendGap_status (s : State) : s.spendGap.status = s.status := by
  unfold State.spendGap; split <;> rfl
@[simp] theorem State.spendGap_keyLen (s : State) : s.spendGap.keyLen = s.keyLen := by
  unfold State.spendGap; split <;> rfl
@[simp] theorem State.spendGap_key (s : State) : s.spendGap.key = s.key := by
  unfold State.spendGap; split <;> rfl
@[simp] theorem State.spendGap_din (s : State) : s.spendGap.din = s.din := by
  unfold State.spendGap; split <;> rfl
@[simp] theorem State.spendGap_dout (s : State) : s.spendGap.dout = s.dout := by
  unfold State.spendGap; split <;> rfl
@[simp] theorem State.spendGap_rk (s : State) : s.spendGap.rk = s.rk := by
  unfold State.spendGap; split <;> rfl
@[simp] theorem State.spendGap_bankA (s : State) : s.spendGap.bankA = s.bankA := by
  unfold State.spendGap; split <;> rfl
@[simp] theorem State.spendGap_bankB (s : State) : s.spendGap.bankB = s.bankB := by
  unfold State.spendGap; split <;> rfl
@[simp] theorem State.spendGap_pw (s : State) : s.spendGap.pw = s.pw := by
  unfold State.spendGap; split <;> rfl
@[simp] theorem State.spendGap_phase (s : State) : s.spendGap.phase = s.phase := by
  unfold State.spendGap; split <;> rfl
@[simp] theorem State.spendGap_opc (s : State) : s.spendGap.opc = s.opc := by
  unfold State.spendGap; split <;> rfl
@[simp] theorem State.spendGap_rnd (s : State) : s.spendGap.rnd = s.rnd := by
  unfold State.spendGap; split <;> rfl
@[simp] theorem State.spendGap_stepIdx (s : State) : s.spendGap.stepIdx = s.stepIdx := by
  unfold State.spendGap; split <;> rfl
@[simp] theorem State.spendGap_act (s : State) : s.spendGap.act = s.act := by
  unfold State.spendGap; split <;> rfl
@[simp] theorem State.spendGap_faults (s : State) : s.spendGap.faults = s.faults := by
  unfold State.spendGap; split <;> rfl
@[simp] theorem State.spendGap_keyW (s : State) : s.spendGap.keyW = s.keyW := by
  unfold State.spendGap; split <;> rfl
@[simp] theorem State.spendGap_dinW (s : State) : s.spendGap.dinW = s.dinW := by
  unfold State.spendGap; split <;> rfl
@[simp] theorem State.spendGap_vars (s : State) : s.spendGap.vars = s.vars := by
  unfold State.spendGap; split <;> rfl
@[simp] theorem State.spendGap_primOut (s : State) : s.spendGap.primOut = s.primOut := by
  unfold State.spendGap; split <;> rfl

@[simp] theorem State.setBank_bank (s : State) (x : Bank) (q : Quad) : (s.setBank x q).bank x = q := by cases x <;> rfl

@[simp] theorem State.setBank_bank_other (s : State) (x : Bank) (q : Quad) : (s.setBank x.other q).bank x = s.bank x := by
  cases x <;> rfl

@[simp] theorem Bank.other_other (x : Bank) : x.other.other = x := by cases x <;> rfl

/-- An in-place operation replaces the working state (44_round_network.md R204). -/
@[simp] theorem State.inPlace_active (s : State) (g : Quad → Quad) : (s.inPlace g).active = g s.active := by
  simp [State.active, State.inPlace]

/-- An S-box micro-step leaves the new working state in the bank ACT then names (44_round_network.md R204). -/
@[simp] theorem State.across_active (s : State) (g : Quad → Quad) : (s.across g).active = g s.active :=
  s.setBank_bank _ _

/-- An S-box micro-step leaves the bank it read (44_round_network.md R204). -/
@[simp] theorem State.across_bank_read (s : State) (g : Quad → Quad) : (s.across g).bank s.act = s.bank s.act :=
  s.setBank_bank_other s.act _

end Sys2Proof.Machine
end

