-- ==== Sys2Proof/Laws/Registers.lean ====
section
/-! SUPPORT. The registers of the window, the fault record and the host's variables: what each named operation can do. -/

namespace Sys2Proof.Machine

theorem State.raise_faults (s : State) (f : Fault) :
    (s.raise f).faults = if f ∈ s.faults then s.faults else s.faults ++ [f] := rfl

/-- A raised fault is recorded and nothing is removed (60_exceptions.md R255). -/
@[simp] theorem State.mem_raise (s : State) (f g : Fault) : g ∈ (s.raise f).faults ↔ g ∈ s.faults ∨ g = f := by
  rw [State.raise_faults]
  split
  · constructor
    · exact Or.inl
    · rintro (h | rfl)
      · exact h
      · assumption
  · simp

@[simp] theorem State.mem_raiseAll (s : State) (fs : List Fault) (g : Fault) :
    g ∈ (s.raiseAll fs).faults ↔ g ∈ s.faults ∨ g ∈ fs := by
  induction fs generalizing s with
  | nil => simp [State.raiseAll]
  | cons f fs ih =>
    have h := ih (s.raise f)
    rw [State.mem_raise] at h
    rw [show s.raiseAll (f :: fs) = (s.raise f).raiseAll fs from rfl, h, List.mem_cons]
    tauto

/-- Raising keeps the fault record a set. -/
theorem State.raise_nodup {s : State} (f : Fault) (h : s.faults.Nodup) : (s.raise f).faults.Nodup := by
  rw [State.raise_faults]
  split
  · exact h
  · exact List.nodup_append.2 ⟨h, by simp, by rintro a ha b hb rfl; simp_all⟩

theorem State.raiseAll_nodup {s : State} (fs : List Fault) (h : s.faults.Nodup) : (s.raiseAll fs).faults.Nodup := by
  induction fs generalizing s with
  | nil => exact h
  | cons f fs ih => exact ih (State.raise_nodup f h)

/-- Raising keeps the faults recorded so far in their place. -/
theorem State.raise_prefix (s : State) (f : Fault) : s.faults <+: (s.raise f).faults := by
  rw [State.raise_faults]
  split
  · exact List.prefix_rfl
  · exact List.prefix_append _ _

theorem State.raiseAll_prefix (s : State) (fs : List Fault) : s.faults <+: (s.raiseAll fs).faults := by
  induction fs generalizing s with
  | nil => exact List.prefix_rfl
  | cons f fs ih => exact (s.raise_prefix f).trans (ih (s.raise f))

@[simp] theorem State.raiseAll_nil (s : State) : s.raiseAll [] = s := rfl

/-- Raising changes the fault record and nothing else. -/
theorem State.raise_eq (s : State) (f : Fault) : s.raise f = { s with faults := (s.raise f).faults } := rfl

theorem State.raiseAll_eq (s : State) (fs : List Fault) : s.raiseAll fs = { s with faults := (s.raiseAll fs).faults } := by
  induction fs generalizing s with
  | nil => rfl
  | cons f fs ih => exact ih (s.raise f)

/-- `raise` depends on the fault record alone, and changes it alone. -/
theorem State.raise_congr {s t : State} (f : Fault) (h : s.faults = t.faults) : (s.raise f).faults = (t.raise f).faults := by
  rw [State.raise_faults, State.raise_faults, h]

theorem State.raiseAll_congr {s t : State} (fs : List Fault) (h : s.faults = t.faults) :
    (s.raiseAll fs).faults = (t.raiseAll fs).faults := by
  induction fs generalizing s t with
  | nil => exact h
  | cons f fs ih => exact ih (State.raise_congr f h)

/-- Raising into an empty record keeps it empty only when nothing is raised. -/
theorem State.raiseAll_eq_nil {s : State} {fs : List Fault} (h : (s.raiseAll fs).faults = []) : fs = [] := by
  cases fs with
  | nil => rfl
  | cons f fs =>
    have := (State.mem_raiseAll s (f :: fs) f).2 (Or.inr List.mem_cons_self)
    rw [h] at this
    cases this

@[simp] theorem State.raise_ne_nil (s : State) (f : Fault) : (s.raise f).faults ≠ [] := fun h => by
  have := (State.mem_raise s f f).2 (Or.inr rfl)
  rw [h] at this
  cases this

/-- A command word written to CMD is the ignored write while BUSY = 1, else the acceptance step (44_round_network.md R220). -/
theorem State.issue_cases (s : State) (c : Word) (t : State) :
    (s.status.busy = true ∧ s.issue c t = s.busyWrite .cmd c) ∨ (s.status.busy = false ∧ s.issue c t = t) := by
  unfold State.issue
  cases s.status.busy
  · exact Or.inr ⟨rfl, rfl⟩
  · exact Or.inl ⟨rfl, rfl⟩

/-- Storing a variable keeps the canonical form. -/
theorem HostVars.wf_set (x : Nat) (v : Word) (l : List (Nat × Word)) (h : HostVars.wf l = true) :
    HostVars.wf (HostVars.set x v l) = true := by
  induction l with
  | nil => rfl
  | cons p rest ih =>
    obtain ⟨y, u⟩ := p
    have hrest : HostVars.wf rest = true := by
      cases rest with
      | nil => rfl
      | cons q r => simp_all [HostVars.wf]
    unfold HostVars.set
    split
    · simp_all [HostVars.wf]
    · split
      · subst x
        cases rest with
        | nil => rfl
        | cons q r => simp_all [HostVars.wf]
      · have hxy : y < x := by omega
        cases rest with
        | nil => simp [HostVars.set, HostVars.wf, hxy]
        | cons q r =>
          obtain ⟨z, w⟩ := q
          have hyz : y < z := by simp_all [HostVars.wf]
          have := ih hrest
          unfold HostVars.set at this ⊢
          split
          · simp_all [HostVars.wf]
          · split <;> simp_all [HostVars.wf]

/-- A stored variable reads back. -/
@[simp] theorem HostVars.get_set_self (x : Nat) (v : Word) (l : List (Nat × Word)) :
    HostVars.get x (HostVars.set x v l) = some v := by
  induction l with
  | nil => simp [HostVars.set, HostVars.get]
  | cons p rest ih =>
    obtain ⟨y, u⟩ := p
    unfold HostVars.set
    split
    · simp [HostVars.get]
    · split
      · simp [HostVars.get]
      · simp [HostVars.get, *]

/-- Storing a variable leaves the others. -/
theorem HostVars.get_set_of_ne {x z : Nat} (v : Word) (l : List (Nat × Word)) (h : z ≠ x) :
    HostVars.get z (HostVars.set x v l) = HostVars.get z l := by
  induction l with
  | nil => simp [HostVars.set, HostVars.get, h]
  | cons p rest ih =>
    obtain ⟨y, u⟩ := p
    unfold HostVars.set
    split
    · simp [HostVars.get, h]
    · split
      · subst x
        simp [HostVars.get, h]
      · by_cases hz : z = y <;> simp [HostVars.get, hz, ih]

@[simp] theorem Quad.get_set_self (q : Quad) (i : Fin 4) (v : Word) : (q.set i v).get i = v := by
  fin_cases i <;> rfl

theorem Quad.get_set_of_ne (q : Quad) {i j : Fin 4} (v : Word) (h : j ≠ i) : (q.set i v).get j = q.get j := by
  fin_cases i <;> fin_cases j <;> first | rfl | exact absurd rfl h

/-- A quadruple is its four words. -/
theorem Quad.ext_get {p q : Quad} (h : ∀ i, p.get i = q.get i) : p = q := by
  obtain ⟨a, b, c, d⟩ := p
  obtain ⟨e, f, g, k⟩ := q
  have h0 := h 0
  have h1 := h 1
  have h2 := h 2
  have h3 := h 3
  simp only [Quad.get] at h0 h1 h2 h3
  subst h0 h1 h2 h3
  rfl

theorem Vector.get_set_self' {α : Type} {n : Nat} (v : Vector α n) (i : Fin n) (x : α) :
    (v.set i.val x i.isLt).get i = x := by
  simp [Vector.get_eq_getElem]

theorem Vector.get_set_of_ne' {α : Type} {n : Nat} (v : Vector α n) {i j : Fin n} (x : α) (h : j ≠ i) :
    (v.set i.val x i.isLt).get j = v.get j := by
  have : i.val ≠ j.val := fun e => h (Fin.ext e.symm)
  simp [Vector.get_eq_getElem, this]

/-- Every register is decoded at its own offset (10_state.md R20). -/
@[simp] theorem Reg.atOffset_offset (r : Reg) : Reg.atOffset r.offset = some r := by
  cases r with
  | key i => fin_cases i <;> rfl
  | din i => fin_cases i <;> rfl
  | dout i => fin_cases i <;> rfl
  | _ => rfl

/-- An aligned 32-bit access to a register has no fault of its offset or width. -/
@[simp] theorem accessFaults_offset (r : Reg) : accessFaults r.offset 4 = [] := by
  cases r with
  | key i => fin_cases i <;> rfl
  | din i => fin_cases i <;> rfl
  | dout i => fin_cases i <;> rfl
  | _ => rfl

theorem mem_unwrittenKeys (s : State) (n : Nat) (f : Fault) :
    f ∈ s.unwrittenKeys n ↔ ∃ i : Fin 8, i.val < n / 4 ∧ s.keyW.get i = false ∧ f = .unwrittenInput (.key i) := by
  simp only [State.unwrittenKeys, List.mem_map, List.mem_filter, List.mem_finRange, true_and, Bool.and_eq_true,
    decide_eq_true_eq, Bool.not_eq_true']
  constructor
  · rintro ⟨i, ⟨h1, h2⟩, rfl⟩
    exact ⟨i, h1, h2, rfl⟩
  · rintro ⟨i, h1, h2, rfl⟩
    exact ⟨i, ⟨h1, h2⟩, rfl⟩

theorem mem_unwrittenDin (s : State) (f : Fault) :
    f ∈ s.unwrittenDin ↔ ∃ i : Fin 4, s.dinW.get i = false ∧ f = .unwrittenInput (.din i) := by
  simp only [State.unwrittenDin, List.mem_map, List.mem_filter, List.mem_finRange, true_and, Bool.not_eq_true']
  constructor
  · rintro ⟨i, h, rfl⟩
    exact ⟨i, h, rfl⟩
  · rintro ⟨i, h, rfl⟩
    exact ⟨i, h, rfl⟩

/-- Which fault lists a fault-free write to a register of the window comes to. -/
theorem busWrite_offset (s : State) (r : Reg) (v : Word) :
    s.busWrite r.offset 4 v = match r with | .cmd => s.writeCmd v | r => .next (s.writeReg r v) := by
  unfold State.busWrite
  rw [accessFaults_offset, Reg.atOffset_offset]
  cases r <;> rfl

theorem busRead_offset (s : State) (r : Reg) (x : Nat) :
    s.busRead r.offset 4 x = (s.setVar x (s.readWord r)).raiseAll (s.readFaults r) := by
  unfold State.busRead
  rw [accessFaults_offset, Reg.atOffset_offset]

/-- The faults of an access by its offset and width are those whose rule names it (20_memory.md R52, R53). -/
@[simp] theorem mem_accessFaults (off : BitVec 8) (n : Nat) (f : Fault) :
    f ∈ accessFaults off n ↔
      (((0x14 ≤ off.toNat ∧ off.toNat ≤ 0x1F) ∨ 0x60 ≤ off.toNat) ∧ f = .busUnmapped off) ∨
        ((n ≠ 4 ∨ off.toNat % 4 ≠ 0) ∧ f = .busWidth off n) := by
  have hu : undecoded off = true ↔ (0x14 ≤ off.toNat ∧ off.toNat ≤ 0x1F) ∨ 0x60 ≤ off.toNat := by simp [undecoded]
  have ha : admitted off n = true ↔ ¬ (n ≠ 4 ∨ off.toNat % 4 ≠ 0) := by simp [admitted]
  unfold accessFaults
  rw [List.mem_append, ← hu, ← not_iff_not.2 ha |>.trans not_not]
  cases undecoded off <;> cases admitted off n <;> simp

/-- A write that is not performed only records its faults. -/
theorem busWrite_dropped (s : State) {off : BitVec 8} {n : Nat} (v : Word) (h : accessFaults off n ≠ []) :
    s.busWrite off n v = .next (s.raiseAll (accessFaults off n)) := by
  unfold State.busWrite
  split
  · contradiction
  · contradiction
  · rfl

/-- A read that is not performed gives zero and records its faults. -/
theorem busRead_dropped (s : State) {off : BitVec 8} {n : Nat} (x : Nat) (h : accessFaults off n ≠ []) :
    s.busRead off n x = (s.setVar x 0#32).raiseAll (accessFaults off n) := by
  unfold State.busRead
  split
  · contradiction
  · rfl

/-- A decoded, admitted offset is that of a register (20_memory.md R50, R52, R53). -/
theorem accessFaults_nil {off : BitVec 8} {n : Nat} (h : accessFaults off n = []) :
    n = 4 ∧ ∃ r : Reg, Reg.atOffset off = some r := by
  have hw : undecoded off = false ∧ admitted off n = true := by
    revert h
    unfold accessFaults
    cases undecoded off <;> cases admitted off n <;> simp
  obtain ⟨hu, ha⟩ := hw
  have ha' : n = 4 ∧ off.toNat % 4 = 0 := by simpa [admitted] using ha
  refine ⟨ha'.1, ?_⟩
  have key : ∀ o : BitVec 8, undecoded o = false → o.toNat % 4 = 0 → ∃ r : Reg, Reg.atOffset o = some r := by
    intro o h1 h2
    have h3 : o.toNat < 0x60 ∧ ¬ (0x14 ≤ o.toNat ∧ o.toNat ≤ 0x1F) := by
      simp [undecoded] at h1
      omega
    unfold Reg.atOffset
    simp only
    repeat' split
    all_goals first | exact ⟨_, rfl⟩ | omega
  exact key off hu ha'.2

end Sys2Proof.Machine
end

