-- ==== Sys2Proof/Laws/Sbox.lean ====
section
/-! SUPPORT. The bit-sliced substitution, lane by lane (41_substitution.md R120). -/

namespace Sys2Proof.Machine

@[simp] theorem getLsbD_ofLanes (n : Nat) (f : Nat → Bool) (j : Nat) :
    (ofLanes n f).getLsbD j = (decide (j < n) && f j) := by
  induction n with
  | zero => simp [ofLanes]
  | succ n ih =>
    simp only [ofLanes, BitVec.getLsbD_cons, ih]
    by_cases h : j = n
    · simp [h]
    · have : (j < n + 1) ↔ j < n := by omega
      simp [h, this]

theorem nib_lt (q : Quad) (j : Nat) : nib q j < 16 := by
  unfold nib
  have h0 := Bool.toNat_lt (q.w0.getLsbD j)
  have h1 := Bool.toNat_lt (q.w1.getLsbD j)
  have h2 := Bool.toNat_lt (q.w2.getLsbD j)
  have h3 := Bool.toNat_lt (q.w3.getLsbD j)
  omega

/-- A nibble below 16 is rebuilt from its four bits. -/
theorem nib_bits (y : Nat) (h : y < 16) :
    (y.testBit 0).toNat + 2 * (y.testBit 1).toNat + 4 * (y.testBit 2).toNat + 8 * (y.testBit 3).toNat = y := by
  interval_cases y <;> rfl

/-- In every lane, `slice` puts the table's entry for the lane's nibble. -/
theorem nib_slice (t : List Nat) (q : Quad) {j : Nat} (hj : j < 32) (ht : t.getD (nib q j) 0 < 16) :
    nib (slice t q) j = t.getD (nib q j) 0 := by
  rw [nib]
  simp only [slice, getLsbD_ofLanes, hj, decide_true, Bool.true_and]
  exact nib_bits _ ht

/-- Four bits are read back from their number. -/
theorem bits_of_nib : ∀ a b c d e f g h : Bool,
    a.toNat + 2 * b.toNat + 4 * c.toNat + 8 * d.toNat = e.toNat + 2 * f.toNat + 4 * g.toNat + 8 * h.toNat →
      a = e ∧ b = f ∧ c = g ∧ d = h := by
  decide

/-- A quadruple is its 32 lane nibbles. -/
theorem Quad.ext_nib {p q : Quad} (h : ∀ j < 32, nib p j = nib q j) : p = q := by
  have bits : ∀ j < 32, p.w0.getLsbD j = q.w0.getLsbD j ∧ p.w1.getLsbD j = q.w1.getLsbD j ∧
      p.w2.getLsbD j = q.w2.getLsbD j ∧ p.w3.getLsbD j = q.w3.getLsbD j := by
    intro j hj
    exact bits_of_nib _ _ _ _ _ _ _ _ (h j hj)
  obtain ⟨a, b, c, d⟩ := p
  obtain ⟨e, f, g, k⟩ := q
  congr 1
  · exact BitVec.eq_of_getLsbD_eq fun j hj => (bits j hj).1
  · exact BitVec.eq_of_getLsbD_eq fun j hj => (bits j hj).2.1
  · exact BitVec.eq_of_getLsbD_eq fun j hj => (bits j hj).2.2.1
  · exact BitVec.eq_of_getLsbD_eq fun j hj => (bits j hj).2.2.2

/-- Two tables that undo each other on every nibble undo each other on every quadruple. -/
theorem slice_slice {t u : List Nat} (ht : ∀ x < 16, t.getD x 0 < 16) (hu : ∀ x < 16, u.getD (t.getD x 0) 0 = x) (q : Quad) :
    slice u (slice t q) = q := by
  apply Quad.ext_nib
  intro j hj
  have hq := nib_lt q j
  have h1 := nib_slice t q hj (ht _ hq)
  have h2 : u.getD (nib (slice t q) j) 0 = nib q j := by rw [h1, hu _ hq]
  rw [nib_slice u _ hj (by rw [h2]; exact hq), h2]

end Sys2Proof.Machine
end

