-- ==== Sys2Proof/Laws/Schedule.lean ====
section
/-! SUPPORT. The prekey list: its length, that later steps keep earlier words, and the window that shifts over it
(43_key_schedule.md R174, R178). -/

namespace Sys2Proof.Machine

@[simp] theorem prekeys_length (w : Vector Word 8) (n : Nat) : (prekeys w n).length = n + 8 := by
  induction n with
  | zero => simp [prekeys]
  | succ n ih => simp [prekeys, ih]

/-- A word of the list stays what it was when the recurrence goes on. -/
theorem prekeys_stable (w : Vector Word 8) (n m : Nat) {j : Nat} (h : j < n + 8) :
    (prekeys w (n + m)).getD j 0#32 = (prekeys w n).getD j 0#32 := by
  induction m with
  | zero => rfl
  | succ m ih =>
    rw [← ih]
    show (prekeys w (n + m + 1)).getD j 0#32 = _
    rw [prekeys]
    simp only [List.getD_eq_getElem?_getD]
    rw [List.getElem?_append_left (by rw [prekeys_length]; omega)]

/-- The words of a shifted window. -/
theorem shiftWindow_get (p : Vector Word 8) (t : Word) (m : Fin 8) :
    (shiftWindow p t).get m = if h : m.val < 7 then p[m.val + 1] else t := by
  fin_cases m <;> rfl

end Sys2Proof.Machine
end

