-- ==== Sys2Proof/Laws/Step.lean ====
section
/-! SUPPORT. Inversion lemmas: everything a step, a core micro-step and a host line can do. -/

namespace Sys2Proof.Machine

@[simp] theorem exec_fwdInstr (n : Fin 8) (s : State) : exec (fwdInstr n) s = .next (s.across (sbox n)) := by
  fin_cases n <;> rfl

@[simp] theorem exec_invInstr (n : Fin 8) (s : State) : exec (invInstr n) s = .next (s.across (invSbox n)) := by
  fin_cases n <;> rfl

@[simp] theorem exec_keymix (k : Fin 33) (s : State) : exec (.keymix k) s = .next (s.inPlace (keymix s.rk k)) := rfl

@[simp] theorem exec_lt (s : State) : exec .lt s = .next (s.inPlace lt) := rfl

@[simp] theorem exec_ilt (s : State) : exec .ilt s = .next (s.inPlace ilt) := rfl

/-- What a step can do: the state has no recorded fault, and the host or the core moved, or neither could. -/
theorem step_cases {s t : State} (h : step s = .next t) :
    s.faults = [] ∧ ((s.mover = .host ∧ s.hostStep = .next t) ∨ (s.mover = .core ∧ s.coreStep = .next t) ∨
      (s.mover = .neither ∧ t = s)) := by
  unfold step State.guardedStep State.agentStep at h
  cases hf : s.faults with
  | cons f fs => rw [hf] at h; cases h
  | nil =>
    rw [hf] at h
    refine ⟨rfl, ?_⟩
    cases hm : s.mover with
    | host => rw [hm] at h; exact Or.inl ⟨rfl, h⟩
    | core => rw [hm] at h; exact Or.inr (Or.inl ⟨rfl, h⟩)
    | neither => rw [hm] at h; cases h; exact Or.inr (Or.inr ⟨rfl, rfl⟩)

/-- The core moves only outside IDLE. -/
theorem mover_core {s : State} (h : s.mover = .core) : s.phase ≠ .idle := by
  intro hp
  unfold State.mover at h
  rw [hp] at h
  cases hh : s.host <;> simp [hh] at h

/-- Where the host moves, the step is the host's. -/
theorem step_of_host {s : State} (hf : s.faults = []) (hm : s.mover = .host) : step s = s.hostStep := by
  simp [step, State.guardedStep, hf, State.agentStep, hm]

/-- Where the core moves, the step is the core's. -/
theorem step_of_core {s : State} (hf : s.faults = []) (hm : s.mover = .core) : step s = s.coreStep := by
  simp [step, State.guardedStep, hf, State.agentStep, hm]

/-- Outside IDLE some agent moves (44_round_network.md R219). -/
theorem mover_ne_neither {s : State} (h : s.phase ≠ .idle) : s.mover ≠ .neither := by
  intro hm
  unfold State.mover at hm
  cases hp : s.phase <;> first | exact h hp | skip
  all_goals
    rw [hp] at hm
    cases hh : s.host with
    | nil => simp [hh] at hm
    | cons l ls =>
      obtain ⟨g, op⟩ := l
      cases g <;> cases op <;> simp [hh] at hm
      split at hm <;> cases hm

/-- With no host line left the core moves (44_round_network.md R222). -/
theorem mover_of_no_line {s : State} (h : s.phase ≠ .idle) (hh : s.host = []) : s.mover = .core := by
  unfold State.mover
  rw [hh]
  cases hp : s.phase <;> first | exact absurd hp h | rfl

/-- The core's micro-step by phase (44_round_network.md R219). -/
theorem coreStep_cases {s t : State} (h : s.coreStep = .next t) :
    (s.phase = .idle ∧ t = s) ∨
    (∃ hs : s.stepIdx.val < 132, s.phase = .ksStep ∧
      t = { s with
        pw := shiftWindow s.pw (nextPrekey s.pw s.stepIdx.val), stepIdx := ⟨s.stepIdx.val + 1, by omega⟩,
        phase := if (s.stepIdx.val + 1) % 4 = 0 then .ksSbox else .ksStep }.spendGap) ∨
    (s.phase = .ksSbox ∧
      t = (if s.group = lastKey then
          { s with rk := s.rk.set s.group.val (sbox (groupBox s.group) s.pwGroup) s.group.isLt }.finishKey
        else { s with
          rk := s.rk.set s.group.val (sbox (groupBox s.group) s.pwGroup) s.group.isLt, phase := .ksStep }).spendGap) ∨
    (s.phase = .encMix ∧ t = { s.inPlace (keymix s.rk s.rnd) with phase := .encSbox }.spendGap) ∨
    (s.phase = .encSbox ∧
      t = { s.across (sbox (roundBox s.rnd)) with phase := if s.rnd.val < 31 then .encLt else .encFinal }.spendGap) ∨
    (s.phase = .encLt ∧ t = { s.inPlace lt with rnd := Fin.ofNat 33 (s.rnd.val + 1), phase := .encMix }.spendGap) ∨
    (s.phase = .encFinal ∧ t = (s.inPlace (keymix s.rk lastKey)).finishBlock.spendGap) ∨
    (s.phase = .decMix32 ∧ t = { s.inPlace (keymix s.rk lastKey) with phase := .decIsbox }.spendGap) ∨
    (s.phase = .decIlt ∧ t = { s.inPlace ilt with phase := .decIsbox }.spendGap) ∨
    (s.phase = .decIsbox ∧ t = { s.across (invSbox (roundBox s.rnd)) with phase := .decMix }.spendGap) ∨
    (s.phase = .decMix ∧
      t = (if s.rnd.val = 0 then (s.inPlace (keymix s.rk s.rnd)).finishBlock
        else { s.inPlace (keymix s.rk s.rnd) with rnd := Fin.ofNat 33 (s.rnd.val - 1), phase := .decIlt }).spendGap) := by
  unfold State.coreStep State.microOp at h
  cases hp : s.phase <;> simp only [hp] at h
  case idle => cases h; exact Or.inl ⟨rfl, rfl⟩
  case ksStep =>
    right; left
    by_cases hs : s.stepIdx.val < 132
    · refine ⟨hs, rfl, ?_⟩
      simp only [exec, execKsStep, hs, dif_pos, State.sequence, hp] at h
      cases h
      rfl
    · simp only [exec, execKsStep, hs] at h
      cases h
  case ksSbox =>
    right; right; left
    simp only [exec, execKsSbox, State.sequence, hp] at h
    cases h
    exact ⟨rfl, rfl⟩
  all_goals
    simp only [exec_keymix, exec_lt, exec_ilt, exec_fwdInstr, exec_invInstr, State.sequence, State.inPlace_phase,
      State.inPlace_rnd, State.across_phase, State.across_rnd, hp] at h
    cases h
    simp

/-- The host's line (30_encoding.md R77, R78): a write, a read, or a `wait`. -/
theorem hostStep_cases {s t : State} (h : s.hostStep = .next t) :
    (s.host = [] ∧ t = s) ∨
    (∃ g off n v rest, s.host = ⟨g, .write off n v⟩ :: rest ∧ { s with host := rest }.busWrite off n v = .next t) ∨
    (∃ g off n x rest, s.host = ⟨g, .read off n x⟩ :: rest ∧ t = { s with host := rest }.busRead off n x) ∨
    (∃ g x rest, s.host = ⟨g, .wait x⟩ :: rest ∧
      t = if s.status.busy then s else { s with host := rest }.setVar x s.status.word) := by
  unfold State.hostStep at h
  cases hh : s.host with
  | nil => rw [hh] at h; cases h; exact Or.inl ⟨rfl, rfl⟩
  | cons l rest =>
    rw [hh] at h
    obtain ⟨g, op⟩ := l
    cases op with
    | write off n v => exact Or.inr (Or.inl ⟨g, off, n, v, rest, rfl, h⟩)
    | read off n x => cases h; exact Or.inr (Or.inr (Or.inl ⟨g, off, n, x, rest, rfl, rfl⟩))
    | wait x => cases h; exact Or.inr (Or.inr (Or.inr ⟨g, x, rest, rfl, rfl⟩))

/-- What a host write of a value to CMD can do (44_round_network.md R220). -/
theorem writeCmd_cases {s t : State} {c : Word} (h : s.writeCmd c = .next t) :
    (s.status.busy = true ∧ ∃ c', t = s.busyWrite .cmd c') ∨
    (s.status.busy = false ∧
      (t = s.complete .none ∨ t = acceptSetKey s ∨ t = acceptBlock 0x2#4 0 .encMix s ∨
        t = acceptBlock 0x3#4 31 .decMix32 s ∨ t = (s.complete .illegalCommand).raise (.illegalCommand c))) := by
  unfold State.writeCmd at h
  have fin : ∀ (c' : Word) (u : State), Host.Outcome.next (s.issue c' u) = (.next t : Host.Outcome State Fault Refusal) →
      (s.status.busy = true ∧ ∃ c', t = s.busyWrite .cmd c') ∨ (s.status.busy = false ∧ t = u) := by
    intro c' u hu
    cases hu
    unfold State.issue
    cases hb : s.status.busy
    · exact Or.inr ⟨rfl, rfl⟩
    · exact Or.inl ⟨rfl, c', rfl⟩
  unfold decodeWord at h
  split at h
  · rename_i i hi
    split at hi
    · cases hi
    · split at hi
      · cases hi
        rcases fin _ _ h with h' | ⟨hb, h'⟩
        · exact Or.inl h'
        · exact Or.inr ⟨hb, Or.inl h'⟩
      · split at hi
        · cases hi
          rcases fin _ _ h with h' | ⟨hb, h'⟩
          · exact Or.inl h'
          · exact Or.inr ⟨hb, Or.inr (Or.inl h')⟩
        · split at hi
          · cases hi
            rcases fin _ _ h with h' | ⟨hb, h'⟩
            · exact Or.inl h'
            · exact Or.inr ⟨hb, Or.inr (Or.inr (Or.inl h'))⟩
          · split at hi
            · cases hi
              rcases fin _ _ h with h' | ⟨hb, h'⟩
              · exact Or.inl h'
              · exact Or.inr ⟨hb, Or.inr (Or.inr (Or.inr (Or.inl h')))⟩
            · cases hi
  · rcases fin _ _ h with h' | ⟨hb, h'⟩
    · exact Or.inl h'
    · exact Or.inr ⟨hb, Or.inr (Or.inr (Or.inr (Or.inr h')))⟩

/-- What a host write can do: faults of an access that is not performed, the busy write, a command, or a register's store. -/
theorem busWrite_cases {s t : State} {off : BitVec 8} {n : Nat} {v : Word} (h : s.busWrite off n v = .next t) :
    (∃ fs, accessFaults off n = fs ∧ fs ≠ [] ∧ t = s.raiseAll fs) ∨
    (n = 4 ∧ Reg.atOffset off = some .cmd ∧ s.writeCmd v = .next t) ∨
    (n = 4 ∧ ∃ r, Reg.atOffset off = some r ∧ r ≠ .cmd ∧ t = s.writeReg r v) := by
  unfold State.busWrite at h
  cases hf : accessFaults off n with
  | cons f fs =>
    rw [hf] at h
    cases hr : Reg.atOffset off <;> rw [hr] at h <;> cases h <;> exact Or.inl ⟨_, rfl, by simp, rfl⟩
  | nil =>
    obtain ⟨hn, r, hr⟩ := accessFaults_nil hf
    rw [hf, hr] at h
    cases r with
    | cmd => exact Or.inr (Or.inl ⟨hn, hr, h⟩)
    | _ => cases h; exact Or.inr (Or.inr ⟨hn, _, hr, by simp, rfl⟩)

/-- What a host read can do: the register's word, or zero for an access that is not performed; faults may be recorded. -/
theorem busRead_cases (s : State) (off : BitVec 8) (n : Nat) (x : Nat) :
    (∃ r, Reg.atOffset off = some r ∧ n = 4 ∧ s.busRead off n x = (s.setVar x (s.readWord r)).raiseAll (s.readFaults r)) ∨
    (∃ fs, accessFaults off n = fs ∧ fs ≠ [] ∧ s.busRead off n x = (s.setVar x 0#32).raiseAll fs) := by
  unfold State.busRead
  cases hf : accessFaults off n with
  | cons f fs => right; cases hr : Reg.atOffset off <;> exact ⟨_, rfl, by simp, rfl⟩
  | nil =>
    obtain ⟨hn, r, hr⟩ := accessFaults_nil hf
    rw [hr]
    exact Or.inl ⟨r, rfl, hn, rfl⟩

/-- What a word written to CMD while BUSY = 0 comes to, by its decoding (44_round_network.md R220). -/
theorem writeCmd_idle {s : State} (hb : s.status.busy = false) (c : Word) :
    s.writeCmd c = .next (match decodeWord c with
      | .instr .setKey => acceptSetKey s
      | .instr .encrypt => acceptBlock 0x2#4 0 .encMix s
      | .instr .decrypt => acceptBlock 0x3#4 31 .decMix32 s
      | .instr _ => s.complete .none
      | .reject _ => (s.complete .illegalCommand).raise (.illegalCommand c)) := by
  unfold State.writeCmd decodeWord
  split
  · rename_i i hi
    split at hi
    · cases hi
    · repeat' split at hi
      all_goals cases hi
      all_goals simp [exec, execNop, execSetKey, execEncrypt, execDecrypt, State.issue, *]
  · rename_i r hr
    simp [State.illegalCommand, State.issue, hb, hr]

/-- The offset of a decoded register is the one it was decoded at. -/
theorem Reg.offset_of_atOffset {off : BitVec 8} {r : Reg} (h : Reg.atOffset off = some r) : off = r.offset := by
  revert h
  revert off
  have : ∀ off : BitVec 8, ∀ q ∈ Reg.atOffset off, off = q.offset := by decide
  intro off h
  exact this off r h

/-- Everything the host's next line can do to the state without that line: an access that is not performed, a busy write, a
register's store, the acceptance of a command, a read, a poll of STATUS. -/
theorem hostStep_outcomes {s t : State} (h : s.hostStep = .next t) :
    (t = s ∧ (s.host = [] ∨ s.status.busy = true)) ∨ ∃ l rest, s.host = l :: rest ∧ (
      (∃ off n v fs, l.op = .write off n v ∧ fs ≠ [] ∧ t = { s with host := rest }.raiseAll fs) ∨
      (∃ r v v', l.op = .write (Reg.offset r) 4 v ∧ s.status.busy = true ∧ t = { s with host := rest }.busyWrite r v') ∨
      (∃ r v, l.op = .write (Reg.offset r) 4 v ∧ r ≠ .cmd ∧ t = { s with host := rest }.writeReg r v) ∨
      (∃ v, l.op = .write 0x08#8 4 v ∧ s.status.busy = false ∧
        t = match decodeWord v with
          | .instr .setKey => acceptSetKey { s with host := rest }
          | .instr .encrypt => acceptBlock 0x2#4 0 .encMix { s with host := rest }
          | .instr .decrypt => acceptBlock 0x3#4 31 .decMix32 { s with host := rest }
          | .instr _ => { s with host := rest }.complete .none
          | .reject _ => ({ s with host := rest }.complete .illegalCommand).raise (.illegalCommand v)) ∨
      ∃ x v fs, t = ({ s with host := rest }.setVar x v).raiseAll fs) := by
  rcases hostStep_cases h with ⟨hs, rfl⟩ | ⟨g, off, n, v, rest, hs, hw⟩ | ⟨g, off, n, x, rest, hs, rfl⟩ | ⟨g, x, rest, hs, rfl⟩
  · exact Or.inl ⟨rfl, Or.inl hs⟩
  · refine Or.inr ⟨_, rest, hs, ?_⟩
    rcases busWrite_cases hw with ⟨fs, _, hn, rfl⟩ | ⟨rfl, ho, hc⟩ | ⟨rfl, r, ho, hr, rfl⟩
    · exact Or.inl ⟨off, n, v, fs, rfl, hn, rfl⟩
    · have := Reg.offset_of_atOffset ho
      subst this
      cases hb : s.status.busy
      · refine Or.inr (Or.inr (Or.inr (Or.inl ⟨v, rfl, rfl, ?_⟩)))
        rw [writeCmd_idle (s := { s with host := rest }) hb] at hc
        cases hc
        rfl
      · rcases writeCmd_cases hc with ⟨_, c', rfl⟩ | ⟨hb', _⟩
        · exact Or.inr (Or.inl ⟨.cmd, v, c', rfl, rfl, rfl⟩)
        · rw [show ({ s with host := rest } : State).status.busy = true from hb] at hb'
          cases hb'
    · have := Reg.offset_of_atOffset ho
      subst this
      exact Or.inr (Or.inr (Or.inl ⟨r, v, rfl, hr, rfl⟩))
  · refine Or.inr ⟨_, rest, hs, Or.inr (Or.inr (Or.inr (Or.inr ?_)))⟩
    rcases busRead_cases { s with host := rest } off n x with ⟨r, _, _, e⟩ | ⟨fs, _, _, e⟩ <;> rw [e] <;>
      exact ⟨_, _, _, rfl⟩
  · cases hb : s.status.busy
    · exact Or.inr ⟨_, rest, hs, Or.inr (Or.inr (Or.inr (Or.inr ⟨x, s.status.word, [], by simp⟩)))⟩
    · exact Or.inl ⟨by simp, Or.inr rfl⟩

end Sys2Proof.Machine
end

