-- ==== Sys2Proof/Laws/Words.lean ====
section
/-! SUPPORT. The rotations as the rotations of the bit vector library (40_word_primitives.md R100, R101). -/

namespace Sys2Proof.Machine

theorem rotl32_eq (x : Word) {n : Nat} (h : n < 32) : rotl32 x n = x.rotateLeft n := by
  rw [BitVec.rotateLeft_def, Nat.mod_eq_of_lt h]
  rfl

theorem rotr32_eq (x : Word) {n : Nat} (h : n < 32) : rotr32 x n = x.rotateRight n := by
  rw [BitVec.rotateRight_def, Nat.mod_eq_of_lt h]
  rfl

end Sys2Proof.Machine
end

