-- ==== Sys2Proof/Tests/Slice0.lean ====
section
/-! SUPPORT. Small tests of one step each, their expected results from the spec's examples and tables, and for each
obligation with hypotheses a state and operands that meet them. -/

namespace Sys2Proof.Tests

open Sys2Proof Sys2Proof.Machine

/-! ### Helpers -/

/-- The state after a next outcome meets `p`; false for a stop. -/
def after (o : Host.Outcome State Fault Refusal) (p : State → Bool) : Bool :=
  match o with
  | .next t => p t
  | .fault _ => false
  | .refused _ => false

/-- The refusal of an outcome. -/
def refusal (o : Host.Outcome State Fault Refusal) : Option Refusal :=
  match o with
  | .next _ => none
  | .fault _ => none
  | .refused r => some r

/-- Reset with a quadruple in bank A. -/
def bankState (q : Quad) : State := { State.reset with bankA := q }

/-- The word inputs of an example: nibble `j mod 16` in lane `j` (95_test_vectors.md 2.2). -/
def pattern : Quad := ⟨0xAAAAAAAA#32, 0xCCCCCCCC#32, 0xF0F0F0F0#32, 0xFF00FF00#32⟩

/-- The mixed input `X` (95_test_vectors.md 2.2). -/
def mixed : Quad := ⟨0x01234567#32, 0x89ABCDEF#32, 0xFEDCBA98#32, 0x76543210#32⟩

/-- The known-answer key's words (95_test_vectors.md 1.1). -/
def katKey : Vector Word 8 :=
  #v[0x03020100#32, 0x07060504#32, 0x0B0A0908#32, 0x0F0E0D0C#32, 0x13121110#32, 0x17161514#32, 0x1B1A1918#32, 0x1F1E1D1C#32]

/-- The known-answer plaintext's words. -/
def katBlock : Quad := ⟨0x03020100#32, 0x07060504#32, 0x0B0A0908#32, 0x0F0E0D0C#32⟩

/-- An idle core with KEY_VALID, DOUT_VALID and all inputs written: STATUS = 0x00000006 (95_test_vectors.md 2.8). -/
def ready : State :=
  { State.reset with
    status := ⟨false, true, true, false, .none⟩, keyLen := 32#32, key := katKey, din := katBlock,
    keyW := Vector.replicate 8 true, dinW := Vector.replicate 4 true }

/-- `ready` with one host line. -/
def readyWith (op : HostOp) : State := { ready with host := [⟨0, op⟩] }

/-- A SET_KEY in flight. -/
def expanding (p : Phase) (i : Fin 133) : State :=
  { ready with status := ⟨true, false, false, false, .none⟩, opc := 1#4, phase := p, stepIdx := i, pw := katKey }

/-- An ENCRYPT in flight. -/
def encrypting (p : Phase) (r : Fin 33) (x : Bank) : State :=
  { ready with
    status := ⟨true, true, false, false, .none⟩, opc := 2#4, phase := p, rnd := r, act := x, bankA := pattern, bankB := mixed }

/-- A DECRYPT in flight. -/
def decrypting (p : Phase) (r : Fin 33) (x : Bank) : State :=
  { ready with
    status := ⟨true, true, false, false, .none⟩, opc := 3#4, phase := p, rnd := r, act := x, bankA := pattern, bankB := mixed }

/-! ### WellFormed: what each check refuses -/

theorem test_wf_rotl_zero : Instr.wf (.rotl32 1#32 0) = false := by decide
theorem test_wf_rotl_full : Instr.wf (.rotl32 1#32 32) = false := by decide
theorem test_wf_rotr_zero : Instr.wf (.rotr32 1#32 0) = false := by decide
theorem test_wf_rotr_full : Instr.wf (.rotr32 1#32 32) = false := by decide
theorem test_wf_good :
    Instr.wf (.rotl32 1#32 31) = true ∧ Instr.wf (.rotr32 1#32 1) = true ∧ Instr.wf (.ksSbox 32) = true ∧
      Instr.wf .nop = true := by decide

/-! ### Decoding: words written out bit by bit from 30_encoding.md R71, R72 (RSVD, then OP) -/

theorem test_decode_nop : decodeWord 0b00000000000000000000000000000000#32 = .instr .nop := by decide
theorem test_decode_set_key : decodeWord 0b00000000000000000000000000000001#32 = .instr .setKey := by decide
theorem test_decode_encrypt : decodeWord 0b00000000000000000000000000000010#32 = .instr .encrypt := by decide
theorem test_decode_decrypt : decodeWord 0b00000000000000000000000000000011#32 = .instr .decrypt := by decide
/-- 95_test_vectors.md 2.8. -/
theorem test_decode_reserved :
    decodeWord 0x00000004#32 = .reject (.reservedOp 4#32) ∧ decodeWord 0x0000000F#32 = .reject (.reservedOp 15#32) ∧
      decodeWord 0x00000010#32 = .reject (.rsvdNonzero 16#32) ∧
      decodeWord 0x80000002#32 = .reject (.rsvdNonzero 0x80000002#32) ∧
      decodeWord 0xFFFFFFFF#32 = .reject (.rsvdNonzero 0xFFFFFFFF#32) := by decide
theorem test_decode_bytes : decode [0x02#8, 0x00#8, 0x00#8, 0x00#8] = .instr .encrypt := by decide
theorem test_decode_truncated : decode [0x02#8, 0x00#8, 0x00#8] = .reject (.truncated 3) := by decide
theorem test_decode_table_word : decodeTableWord 32 3 = some .decrypt := by decide
theorem test_encode_internal : encode .lt = none ∧ encode (.rotl32 1#32 1) = none ∧ encode .ksPad = none := by decide

/-! ### Word primitives (95_test_vectors.md 2.1) -/

theorem test_rotl : after (exec (.rotl32 0x12345678#32 13) State.reset) (fun t => t.primOut == 0x8ACF0246#32) = true := by decide
theorem test_rotl_top : rotl32 0x00000001#32 31 = 0x80000000#32 ∧ rotl32 0x9E3779B9#32 11 = 0xBBCDCCF1#32 := by decide
theorem test_rotr : after (exec (.rotr32 0x12345678#32 13) State.reset) (fun t => t.primOut == 0xB3C091A2#32) = true := by decide
theorem test_rotr_low : rotr32 0x00000001#32 22 = 0x00000400#32 := by decide
theorem test_shl : after (exec (.shl32 0x12345678#32 3) State.reset) (fun t => t.primOut == 0x91A2B3C0#32) = true := by decide
theorem test_shl_drops : shl32 0x80000000#32 3 = 0#32 ∧ shl32 0x01FFFFFF#32 7 = 0xFFFFFF80#32 := by decide
theorem test_bswap : after (exec (.bswap32 0x9E3779B9#32) State.reset) (fun t => t.primOut == 0xB979379E#32) = true := by decide

/-! ### S-boxes: the examples of R122-R137, and the mixed input of 95_test_vectors.md 2.2 -/

theorem test_s0 : after (exec .s0 (bankState pattern)) (fun t =>
    t.bankB == ⟨0x52CD52CD#32, 0x19B519B5#32, 0x97649764#32, 0xC396C396#32⟩ && t.act == .b && t.bankA == pattern) = true := by decide
theorem test_s0_mixed : sbox 0 mixed = ⟨0xFFFFFFFF#32, 0x76543210#32, 0xFEDCBA98#32, 0x00000000#32⟩ := by decide
theorem test_s1 : after (exec .s1 (bankState pattern)) (fun t =>
    t.bankB == ⟨0x63596359#32, 0x568D568D#32, 0xB44BB44B#32, 0x2E932E93#32⟩ && t.act == .b && t.bankA == pattern) = true := by decide
theorem test_s1_mixed : sbox 1 mixed = ⟨0x89ABCDEF#32, 0x77777777#32, 0xFFFFFFFF#32, 0x00000000#32⟩ := by decide
theorem test_s2 : after (exec .s2 (bankState pattern)) (fun t =>
    t.bankB == ⟨0x639C639C#32, 0xA4D6A4D6#32, 0x4DA64DA6#32, 0x25E925E9#32⟩ && t.act == .b && t.bankA == pattern) = true := by decide
theorem test_s2_mixed : sbox 2 mixed = ⟨0x01234567#32, 0x88888888#32, 0x00000000#32, 0x89ABCDEF#32⟩ := by decide
theorem test_s3 : after (exec .s3 (bankState pattern)) (fun t =>
    t.bankB == ⟨0x63A663A6#32, 0xB4C6B4C6#32, 0xE952E952#32, 0x913E913E#32⟩ && t.act == .b && t.bankA == pattern) = true := by decide
theorem test_s3_mixed : sbox 3 mixed = ⟨0x00000000#32, 0xFEDCBA98#32, 0x88888888#32, 0x77777777#32⟩ := by decide
theorem test_s4 : after (exec .s4 (bankState pattern)) (fun t =>
    t.bankB == ⟨0xD24BD24B#32, 0x69CA69CA#32, 0xE692E692#32, 0xB856B856#32⟩ && t.act == .b && t.bankA == pattern) = true := by decide
theorem test_s4_mixed : sbox 4 mixed = ⟨0xFFFFFFFF#32, 0x89ABCDEF#32, 0x00000000#32, 0xFEDCBA98#32⟩ := by decide
theorem test_s5 : after (exec .s5 (bankState pattern)) (fun t =>
    t.bankB == ⟨0xD24BD24B#32, 0x662D662D#32, 0x74937493#32, 0x1CE91CE9#32⟩ && t.act == .b && t.bankA == pattern) = true := by decide
theorem test_s5_mixed : sbox 5 mixed = ⟨0xFFFFFFFF#32, 0x01234567#32, 0x76543210#32, 0xFFFFFFFF#32⟩ := by decide
theorem test_s6 : after (exec .s6 (bankState pattern)) (fun t =>
    t.bankB == ⟨0x3E893E89#32, 0x69C369C3#32, 0x196D196D#32, 0x5B945B94#32⟩ && t.act == .b && t.bankA == pattern) = true := by decide
theorem test_s6_mixed : sbox 6 mixed = ⟨0x77777777#32, 0x88888888#32, 0xFFFFFFFF#32, 0x76543210#32⟩ := by decide
theorem test_s7 : after (exec .s7 (bankState pattern)) (fun t =>
    t.bankB == ⟨0x71877187#32, 0xA9D4A9D4#32, 0xC716C716#32, 0x1CB61CB6#32⟩ && t.act == .b && t.bankA == pattern) = true := by decide
theorem test_s7_mixed : sbox 7 mixed = ⟨0x76543210#32, 0x88888888#32, 0x00000000#32, 0x76543210#32⟩ := by decide
theorem test_i0 : after (exec .i0 (bankState pattern)) (fun t =>
    t.bankB == ⟨0x39473947#32, 0x9A369A36#32, 0x1EE11EE1#32, 0x72957295#32⟩ && t.act == .b && t.bankA == pattern) = true := by decide
theorem test_i0_mixed : invSbox 0 mixed = ⟨0xFEDCBA98#32, 0x76543210#32, 0xFEDCBA98#32, 0x76543210#32⟩ := by decide
theorem test_i1 : after (exec .i1 (bankState pattern)) (fun t =>
    t.bankB == ⟨0x3D913D91#32, 0x45BC45BC#32, 0x26792679#32, 0x695A695A#32⟩ && t.act == .b && t.bankA == pattern) = true := by decide
theorem test_i1_mixed : invSbox 1 mixed = ⟨0x76543210#32, 0x01234567#32, 0x89ABCDEF#32, 0x89ABCDEF#32⟩ := by decide
theorem test_i2 : after (exec .i2 (bankState pattern)) (fun t =>
    t.bankB == ⟨0x9A569A56#32, 0xC6B4C6B4#32, 0x9C2D9C2D#32, 0x68376837#32⟩ && t.act == .b && t.bankA == pattern) = true := by decide
theorem test_i2_mixed : invSbox 2 mixed = ⟨0xFEDCBA98#32, 0x00000000#32, 0x77777777#32, 0x00000000#32⟩ := by decide
theorem test_i3 : after (exec .i3 (bankState pattern)) (fun t =>
    t.bankB == ⟨0xC39AC39A#32, 0x497C497C#32, 0x56E856E8#32, 0x64B664B6#32⟩ && t.act == .b && t.bankA == pattern) = true := by decide
theorem test_i3_mixed : invSbox 3 mixed = ⟨0x01234567#32, 0x89ABCDEF#32, 0xFFFFFFFF#32, 0x00000000#32⟩ := by decide
theorem test_i4 : after (exec .i4 (bankState pattern)) (fun t =>
    t.bankB == ⟨0xE469E469#32, 0x2DD82DD8#32, 0x7AC17AC1#32, 0x66B466B4#32⟩ && t.act == .b && t.bankA == pattern) = true := by decide
theorem test_i4_mixed : invSbox 4 mixed = ⟨0x89ABCDEF#32, 0x89ABCDEF#32, 0xFEDCBA98#32, 0x00000000#32⟩ := by decide
theorem test_i5 : after (exec .i5 (bankState pattern)) (fun t =>
    t.bankB == ⟨0x1D6A1D6A#32, 0x5B865B86#32, 0x36D236D2#32, 0x61CB61CB#32⟩ && t.act == .b && t.bankA == pattern) = true := by decide
theorem test_i5_mixed : invSbox 5 mixed = ⟨0xFFFFFFFF#32, 0x76543210#32, 0xFEDCBA98#32, 0x89ABCDEF#32⟩ := by decide
theorem test_i6 : after (exec .i6 (bankState pattern)) (fun t =>
    t.bankB == ⟨0x8A3D8A3D#32, 0x9C639C63#32, 0x2D592D59#32, 0xE60BE60B#32⟩ && t.act == .b && t.bankA == pattern) = true := by decide
theorem test_i6_mixed : invSbox 6 mixed = ⟨0x01234567#32, 0xFEDCBA98#32, 0x89ABCDEF#32, 0x01234567#32⟩ := by decide
theorem test_i7 : after (exec .i7 (bankState pattern)) (fun t =>
    t.bankB == ⟨0x2D592D59#32, 0x9C659C65#32, 0x4B6C4B6C#32, 0x16F816F8#32⟩ && t.act == .b && t.bankA == pattern) = true := by decide
theorem test_i7_mixed : invSbox 7 mixed = ⟨0x89ABCDEF#32, 0xFEDCBA98#32, 0x89ABCDEF#32, 0xFFFFFFFF#32⟩ := by decide

/-! ### Diffusion (95_test_vectors.md 2.3) -/

theorem test_lt : after (exec .lt (bankState mixed)) (fun t =>
    t.bankA == ⟨0x835D3BD5#32, 0x2FC5F218#32, 0xC97FDBC8#32, 0xEB73FBE2#32⟩ && t.act == .a) = true := by decide
theorem test_lt_unit : lt ⟨0#32, 0#32, 1#32, 0#32⟩ = ⟨0x00008200#32, 0x00000010#32, 0x02000003#32, 0x00000400#32⟩ := by decide
theorem test_ilt : after (exec .ilt (bankState mixed)) (fun t =>
    t.bankA == ⟨0x2EA63FB7#32, 0xD27BA548#32, 0x7A2B14CD#32, 0xCE0320AF#32⟩ && t.act == .a) = true := by decide
theorem test_ilt_ones : ilt ⟨0xFFFFFFFF#32, 0xFFFFFFFF#32, 0xFFFFFFFF#32, 0xFFFFFFFF#32⟩ =
    ⟨0xFFFFFFFF#32, 0xFFFFFF80#32, 0x1FFFFFF0#32, 0xFFFFFF87#32⟩ := by decide

/-! ### Key schedule (95_test_vectors.md 1.2, 2.5, 2.7) -/

theorem test_ks_pad : after (exec .ksPad { ready with keyLen := 16#32 }) (fun t =>
    t.pw == #v[0x03020100#32, 0x07060504#32, 0x0B0A0908#32, 0x0F0E0D0C#32, 1#32, 0#32, 0#32, 0#32]) = true := by decide
theorem test_ks_pad_empty : after (exec .ksPad State.reset) (fun t =>
    t.pw == #v[1#32, 0#32, 0#32, 0#32, 0#32, 0#32, 0#32, 0#32] && t.faults == []) = true := by decide
theorem test_ks_step : after (exec .ksStep (expanding .ksStep 0)) (fun t =>
    t.pw[7] == 0x9BEDECD1#32 && t.pw[0] == 0x07060504#32 && t.stepIdx == 1) = true := by decide
/-- `RK[0]` of the known-answer key. -/
theorem test_ks_sbox : after (exec (.ksSbox 0) { expanding .ksSbox 4 with
      pw := #v[0x13121110#32, 0x17161514#32, 0x1B1A1918#32, 0x1F1E1D1C#32, 0x9BEDECD1#32, 0xA4C32856#32, 0xB28769CF#32,
        0x4F45851A#32] }) (fun t =>
    t.rk.get 0 == ⟨0xDBACECC3#32, 0xA6AF294C#32, 0x626F0016#32, 0x50294189#32⟩) = true := by decide
/-- `prekey[136..139]` and `RK[32]` of the known-answer key: the S-box of group 32 is S3. -/
theorem test_ks_sbox_last : after (exec (.ksSbox 32) { expanding .ksSbox 132 with
      pw := #v[0xCF35DCAA#32, 0x9D1DF117#32, 0xAD00223C#32, 0xACA32E22#32, 0x0FED234A#32, 0x94675C3E#32, 0x4D2F12DE#32,
        0xA833AC97#32] }) (fun t =>
    t.rk.get 32 == ⟨0x3F9EE37D#32, 0x9EA55DAA#32, 0x6AB39117#32, 0x73F9C3E3#32⟩) = true := by decide
/-- The order of the length checks (95_test_vectors.md 2.4). -/
theorem test_validate :
    validate 36#32 = some .keyTooLong ∧ validate 33#32 = some .invalidKeyLength ∧ validate 0#32 = none ∧
      validate 0xFFFFFFFF#32 = some .invalidKeyLength ∧ validate 1000#32 = some .keyTooLong := by decide

/-! ### Round network (95_test_vectors.md 1.3, 2.7) -/

/-- Row "r0 after keymix". -/
theorem test_keymix : after (exec (.keymix 0) { bankState katBlock with
      rk := State.reset.rk.set 0 ⟨0xDBACECC3#32, 0xA6AF294C#32, 0x626F0016#32, 0x50294189#32⟩ }) (fun t =>
    t.bankA == ⟨0xD8AEEDC3#32, 0xA1A92C48#32, 0x6965091E#32, 0x5F274C85#32⟩) = true := by decide
/-- In a round of odd number KEYMIX works on bank B. -/
theorem test_keymix_bank_b : after (exec (.keymix 1) { State.reset with
      act := .b, bankB := mixed, rk := State.reset.rk.set 1 mixed }) (fun t =>
    t.bankB == Quad.zero && t.bankA == Quad.zero) = true := by decide
/-- R218: STATUS goes from 0x00000202 to 0x00000002. -/
theorem test_nop : after (exec .nop { State.reset with status := ⟨false, true, false, false, .keyTooLong⟩ }) (fun t =>
    t.status.word == 0x00000002#32) = true := by decide
theorem test_set_key_rejected : after (exec .setKey { State.reset with keyLen := 5#32 }) (fun t =>
    t.status.word == 0x00000100#32 && t.phase == .idle) = true := by decide
theorem test_set_key : after (exec .setKey ready) (fun t =>
    t.status.word == 0x00000005#32 && t.pw == katKey && t.phase == .ksStep) = true := by decide
theorem test_encrypt : after (exec .encrypt ready) (fun t =>
    t.status.word == 0x00000007#32 && t.bankA == katBlock && t.phase == .encMix && t.rnd == 0) = true := by decide
theorem test_encrypt_no_schedule : after (exec .encrypt State.reset) (fun t =>
    t.status.word == 0x00000300#32 && t.faults == [.noSchedule]) = true := by decide
theorem test_decrypt : after (exec .decrypt ready) (fun t =>
    t.status.word == 0x00000007#32 && t.phase == .decMix32 && t.rnd == 31 && t.act == .a) = true := by decide
theorem test_decrypt_no_schedule : after (exec .decrypt State.reset) (fun t =>
    t.status.word == 0x00000300#32 && t.faults == [.noSchedule]) = true := by decide

/-! ### The window (95_test_vectors.md 2.8, 2.9) -/

theorem test_illegal_command : after (step (readyWith (.write 0x08#8 4 0x80000002#32))) (fun t =>
    t.status.word == 0x00000406#32 && t.faults == [.illegalCommand 0x80000002#32]) = true := by decide
theorem test_busy_write : after (step { expanding .ksStep 0 with host := [wr .cmd 0#32] }) (fun t =>
    t.status.protoErr && t.faults == [.busyWrite .cmd 0#32]) = true := by decide
theorem test_read_key_is_zero : HostVars.get 0 (ready.busRead 0x20#8 4 0).vars = some 0#32 := by decide
theorem test_read_unmapped : (State.reset.busRead 0xFC#8 4 0).faults = [.busUnmapped 0xFC#8] := by decide
theorem test_write_unmapped : after (State.reset.busWrite 0x1C#8 4 1#32) (fun t => t.faults == [.busUnmapped 0x1C#8]) = true := by
  decide
theorem test_read_width : (State.reset.busRead 0x0C#8 1 0).faults = [.busWidth 0x0C#8 1] ∧
    (State.reset.busRead 0x0E#8 4 0).faults = [.busWidth 0x0E#8 4] ∧
    (State.reset.busRead 0x50#8 8 0).faults = [.busWidth 0x50#8 8] := by decide
theorem test_write_width : after (State.reset.busWrite 0x40#8 2 1#32) (fun t => t.faults == [.busWidth 0x40#8 2]) = true := by
  decide
theorem test_dout_unwritten : (State.reset.busRead 0x50#8 4 0).faults = [.doutUnwritten 0] := by decide
theorem test_din_unwritten : (State.reset.busRead 0x40#8 4 0).faults = [.unwrittenInput (.din 0)] := by decide
theorem test_status_write_ignored : after (State.reset.busWrite 0x0C#8 4 0xFFFFFFFF#32) (fun t => decide (t = State.reset)) = true := by
  decide
theorem test_vars_sorted : HostVars.set 1 7#32 [(0, 1#32), (2, 3#32)] = [(0, 1#32), (1, 7#32), (2, 3#32)] := by decide
theorem test_pack : packBlock [0x00#8, 0x01#8, 0x02#8, 0x03#8, 0x04#8, 0x05#8, 0x06#8, 0x07#8, 0x08#8, 0x09#8, 0x0A#8, 0x0B#8,
    0x0C#8, 0x0D#8, 0x0E#8, 0x0F#8] = katBlock := by decide

/-! ### Witnesses: states and operands that meet the hypotheses of each obligation, clause by clause, at the ends of the ranges -/

theorem witness_ResetLeavesStatedValues : ∃ s r : State, r = s.afterReset ∧ s.faults ≠ [] ∧ s.host ≠ [] :=
  ⟨{ readyWith (.wait 0) with faults := [.noSchedule] }, _, rfl, by decide, by decide⟩

theorem witness_CommandWordsDecode : 4 ≤ (0x4#4).toNat ∧ 4 ≤ (0xF#4).toNat := by decide

theorem witness_DecodeIsTotalOnWords :
    16 ≤ (16#32).toNat ∧ 16 ≤ (0xFFFFFFFF#32).toNat ∧ 4 ≤ (4#32).toNat ∧ 4 ≤ (15#32).toNat ∧ (15#32).toNat < 16 ∧
      (0#32).toNat = 0 ∧ (1#32).toNat = 1 ∧ (2#32).toNat = 2 ∧ (3#32).toNat = 3 := by decide

theorem witness_DecodeEncodeAgree :
    decodeWord 3#32 = .instr .decrypt ∧ [3#8, 0#8, 0#8, 0#8].length = 4 ∧ decode [3#8, 0#8, 0#8, 0#8] = .instr .decrypt := by
  decide

theorem witness_InternalOperationsHaveNoWord :
    Instr.lt ≠ .nop ∧ Instr.lt ≠ .setKey ∧ Instr.lt ≠ .encrypt ∧ Instr.lt ≠ .decrypt ∧ Instr.ksSbox 32 ≠ .nop := by decide

theorem witness_RotationsMoveBits :
    (0 < 1 ∧ 1 < 32) ∧ (0 < 31 ∧ 31 < 32) ∧ refusal (exec (.rotl32 1#32 0) State.reset) = some (.rotateAmount 0) ∧
      refusal (exec (.rotr32 1#32 32) State.reset) = some (.rotateAmount 32) := by decide

theorem witness_ShiftLeftDropsTopBits : 30 < (31 : Fin 32).val ∧ (shl32 0xFFFFFFFF#32 31).getLsbD 30 = false := by decide

theorem witness_WordPrimitivesComplete :
    after (exec (.rotl32 1#32 31) State.reset) (fun t => t.primOut == 0x80000000#32) = true ∧
      after (exec (.rotr32 1#32 1) State.reset) (fun t => t.primOut == 0x80000000#32) = true := by decide

theorem witness_SboxesFollowTables : nib pattern 0 = 0 ∧ nib pattern 31 = 15 ∧ 31 < 32 := by decide

theorem witness_PadKeyWords :
    (0#32).toNat % 4 = 0 ∧ (0#32).toNat ≤ 32 ∧ (32#32).toNat % 4 = 0 ∧ (32#32).toNat ≤ 32 ∧
      after (exec .ksPad { State.reset with keyLen := 32#32 }) (fun t => t.faults.length == 8) = true := by decide

theorem witness_RecurrenceStep :
    (expanding .ksStep 0).stepIdx.val < 132 ∧ (expanding .ksStep 131).stepIdx.val < 132 ∧
      after (exec .ksStep (expanding .ksStep 131)) (fun t => t.stepIdx == 132) = true := by decide

theorem witness_RoundKeyWrite :
    (expanding .ksSbox 4).phase = .ksSbox ∧ (expanding .ksSbox 4).stepIdx.val = 4 * (0 : Fin 33).val + 4 ∧
      (expanding .ksSbox 132).stepIdx.val = 4 * (32 : Fin 33).val + 4 := by decide

theorem witness_OperandDomainsRefused :
    refusal (exec .ksPad { ready with keyLen := 33#32 }) = some (.padLength 33#32) ∧
      refusal (exec .ksPad { ready with keyLen := 36#32 }) = some (.padLength 36#32) ∧
      refusal (exec .ksStep (expanding .ksStep 132)) = some .stepExhausted := by decide

theorem witness_NopClearsErr : State.reset.status.busy = false ∧ (expanding .ksStep 0).status.busy = true := by decide

theorem witness_SetKeyAccepted :
    ready.status.busy = false ∧ ready.keyLen.toNat % 4 = 0 ∧ ready.keyLen.toNat ≤ 32 ∧
      State.reset.status.busy = false ∧ State.reset.keyLen.toNat % 4 = 0 ∧ State.reset.keyLen.toNat ≤ 32 := by decide

theorem witness_SetKeyRejectsLength :
    ready.status.busy = false ∧ (33#32).toNat % 4 ≠ 0 ∧ (36#32).toNat % 4 = 0 ∧ 32 < (36#32).toNat ∧
      (32#32).toNat % 4 = 0 ∧ (32#32).toNat ≤ 32 := by decide

theorem witness_BlockCommandsAccepted : ready.status.busy = false ∧ ready.status.keyValid = true := by decide

theorem witness_BlockCommandsWithoutSchedule : State.reset.status.busy = false ∧ State.reset.status.keyValid = false := by decide

theorem witness_BusyWritesIgnored :
    (expanding .ksStep 0).status.busy = true ∧ (Reg.key 7) = .key 7 ∧ (Reg.din 3) = .din 3 ∧ (Reg.dout 3) = .dout 3 ∧
      after ((expanding .ksStep 0).busWrite (Reg.key 7).offset 4 9#32) (fun t => t.faults == [.busyWrite (.key 7) 9#32]) = true := by
  decide

theorem witness_ReservedWordsComplete :
    ready.status.busy = false ∧ (expanding .ksStep 0).status.busy = true ∧ 4 ≤ (4#32).toNat ∧ 4 ≤ (0xFFFFFFFF#32).toNat := by
  decide

theorem witness_RegisterReads :
    1 ≠ 0 ∧ (∀ i : Fin 4, Reg.din 3 = .din i → ready.dinW.get i = true) ∧
      (∀ i : Fin 4, Reg.dout 3 = .dout i → ready.status.doutValid = true) ∧
      (State.reset.busRead (Reg.din 3).offset 4 0).faults = [.unwrittenInput (.din 3)] ∧
      (State.reset.busRead (Reg.dout 3).offset 4 0).faults = [.doutUnwritten 3] := by decide

theorem witness_UndecodedAccess :
    (0x14 ≤ (0x14#8).toNat ∧ (0x14#8).toNat ≤ 0x1F) ∧ (0x14 ≤ (0x1F#8).toNat ∧ (0x1F#8).toNat ≤ 0x1F) ∧
      0x60 ≤ (0x60#8).toNat ∧ 0x60 ≤ (0xFF#8).toNat ∧
      (State.reset.busRead 0x60#8 4 0).faults = [.busUnmapped 0x60#8] ∧ (0xFF#8).toNat % 4 ≠ 0 ∧
      after (State.reset.busWrite 0x14#8 1 0#32) (fun t => t.faults == [.busUnmapped 0x14#8, .busWidth 0x14#8 1]) = true := by
  decide

theorem witness_IllSizedAccess : 1 ≠ 4 ∧ 8 ≠ 4 ∧ (0x0E#8).toNat % 4 ≠ 0 ∧
    after (State.reset.busWrite 0x13#8 4 0#32) (fun t => t.faults == [.busWidth 0x13#8 4]) = true ∧
    (State.reset.busRead 0x1F#8 4 0).faults = [.busUnmapped 0x1F#8, .busWidth 0x1F#8 4] := by decide

theorem witness_UnwrittenInputsRecorded :
    (∃ t, State.reset.status.busy = false ∧ State.reset.keyLen.toNat % 4 = 0 ∧ State.reset.keyLen.toNat ≤ 32 ∧
      exec .setKey State.reset = .next t ∧ Fault.unwrittenInput (.key 0) ∉ State.reset.faults) ∧
    (∃ t, exec .setKey { State.reset with keyLen := 32#32 } = .next t ∧ Fault.unwrittenInput (.key 7) ∈ t.faults) ∧
    ∃ t, exec .encrypt { ready with dinW := Vector.replicate 4 false } = .next t ∧ ready.status.keyValid = true ∧
      Fault.unwrittenInput (.din 3) ∉ ready.faults ∧ Fault.unwrittenInput (.din 3) ∈ t.faults :=
  ⟨⟨_, by decide, by decide, by decide, rfl, by decide⟩, ⟨_, rfl, by decide⟩, ⟨_, rfl, by decide, by decide, by decide⟩⟩

theorem witness_HostWritesStore : ready.status.busy = false ∧ (1 : Fin 8) ≠ 0 ∧ (3 : Fin 4) ≠ 0 := by decide

theorem witness_StatusWordLayout :
    ∀ e : Nat × ErrCode, e ∈ [(0, ErrCode.none), (1, .invalidKeyLength), (2, .keyTooLong), (3, .noSchedule), (4, .illegalCommand)] →
      HostVars.get 0 ({ State.reset with status := ⟨false, false, false, false, e.2⟩ }.busRead 0x0C#8 4 0).vars =
        some (BitVec.ofNat 32 (256 * e.1)) := by decide

theorem witness_LittleEndianPacking :
    4 * 3 + 3 < (List.replicate 16 0xAB#8).length ∧ (List.replicate 16 0xAB#8).length = 16 := by decide

theorem witness_StepRunsDecodedCommand :
    (readyWith (.write 0x08#8 4 2#32)).faults = [] ∧
      (readyWith (.write 0x08#8 4 2#32)).host = ⟨0, .write 0x08#8 4 2#32⟩ :: [] ∧
      { ready with host := [⟨5, .write 0x08#8 4 2#32⟩] }.phase = .idle ∧ decodeWord 2#32 = .instr .encrypt ∧
      (expanding .ksStep 0).phase ≠ .idle ∧ decodeWord 4#32 = .reject (.reservedOp 4#32) := by decide

theorem witness_StepRunsDecodedCommand_lines :
    (expanding .ksStep 0).faults = [] ∧
      { expanding .ksStep 0 with host := [⟨0, .write 0xFF#8 1 0#32⟩] }.host = ⟨0, .write 0xFF#8 1 0#32⟩ :: [] ∧
      { expanding .ksStep 0 with host := [⟨0, .read 0x0C#8 4 1⟩] }.host = ⟨0, .read 0x0C#8 4 1⟩ :: [] ∧
      { ready with host := [⟨9, .wait 1⟩] }.phase = .idle ∧ { ready with host := [⟨9, .wait 1⟩] }.faults = [] ∧
      { ready with host := [⟨9, .wait 1⟩] }.status.busy = false ∧
      { encrypting .encMix 0 .a with status := ready.status, host := [⟨0, .wait 1⟩] }.status.busy = false ∧ 0 ≠ 1 ∧
      after (step { ready with host := [⟨9, .wait 1⟩] }) (fun t =>
        HostVars.get 1 t.vars == some 0x00000006#32 && t.host == []) = true := by decide

theorem witness_StepRunsMicroOperation :
    (expanding .ksStep 0).faults = [] ∧ (expanding .ksStep 0).microOp = some .ksStep ∧ (expanding .ksStep 0).host = [] ∧
      { expanding .ksStep 0 with host := [⟨1, .wait 0⟩] }.host = ⟨0 + 1, .wait 0⟩ :: [] ∧
      { expanding .ksStep 0 with host := [⟨0, .wait 0⟩] }.host = ⟨0, .wait 0⟩ :: [] ∧ (expanding .ksStep 0).status.busy = true ∧
      (expanding .ksStep 132).microOp = some .ksStep ∧
      refusal (exec .ksStep (expanding .ksStep 132)) = some .stepExhausted := by decide

theorem witness_ready_inv : ready.Inv := ⟨by decide, trivial, by decide, by decide⟩

theorem witness_ksStep_inv : (expanding .ksStep 0).Inv ∧ (expanding .ksStep 131).Inv :=
  ⟨⟨by decide, ⟨rfl, rfl, by decide⟩, by decide, by decide⟩, ⟨by decide, ⟨rfl, rfl, by decide⟩, by decide, by decide⟩⟩

theorem witness_ksSbox_inv : (expanding .ksSbox 4).Inv ∧ (expanding .ksSbox 132).Inv :=
  ⟨⟨by decide, ⟨rfl, rfl, rfl, by decide⟩, by decide, by decide⟩, ⟨by decide, ⟨rfl, rfl, rfl, by decide⟩, by decide, by decide⟩⟩

theorem witness_encMix_inv : (encrypting .encMix 0 .a).Inv ∧ (encrypting .encMix 31 .b).Inv :=
  ⟨⟨by decide, ⟨rfl, rfl, by decide, rfl⟩, by decide, by decide⟩, ⟨by decide, ⟨rfl, rfl, by decide, rfl⟩, by decide, by decide⟩⟩

theorem witness_encSbox_inv : (encrypting .encSbox 30 .a).Inv ∧ (encrypting .encSbox 31 .b).Inv :=
  ⟨⟨by decide, ⟨rfl, rfl, by decide, rfl⟩, by decide, by decide⟩, ⟨by decide, ⟨rfl, rfl, by decide, rfl⟩, by decide, by decide⟩⟩

theorem witness_encLt_inv : (encrypting .encLt 0 .b).Inv ∧ (encrypting .encLt 30 .b).Inv :=
  ⟨⟨by decide, ⟨rfl, rfl, by decide, rfl⟩, by decide, by decide⟩, ⟨by decide, ⟨rfl, rfl, by decide, rfl⟩, by decide, by decide⟩⟩

theorem witness_encFinal_inv : (encrypting .encFinal 31 .a).Inv :=
  ⟨by decide, ⟨rfl, rfl, rfl, rfl⟩, by decide, by decide⟩

theorem witness_decMix32_inv : (decrypting .decMix32 31 .a).Inv :=
  ⟨by decide, ⟨rfl, rfl, rfl, rfl⟩, by decide, by decide⟩

theorem witness_decIlt_inv : (decrypting .decIlt 30 .b).Inv ∧ (decrypting .decIlt 0 .b).Inv :=
  ⟨⟨by decide, ⟨rfl, rfl, by decide, rfl⟩, by decide, by decide⟩, ⟨by decide, ⟨rfl, rfl, by decide, rfl⟩, by decide, by decide⟩⟩

theorem witness_decIsbox_inv : (decrypting .decIsbox 31 .a).Inv ∧ (decrypting .decIsbox 0 .b).Inv :=
  ⟨⟨by decide, ⟨rfl, rfl, by decide, rfl⟩, by decide, by decide⟩, ⟨by decide, ⟨rfl, rfl, by decide, rfl⟩, by decide, by decide⟩⟩

theorem witness_decMix_inv : (decrypting .decMix 31 .b).Inv ∧ (decrypting .decMix 0 .a).Inv :=
  ⟨⟨by decide, ⟨rfl, rfl, by decide, rfl⟩, by decide, by decide⟩, ⟨by decide, ⟨rfl, rfl, by decide, rfl⟩, by decide, by decide⟩⟩

theorem witness_StepKeepsInvariant : ∃ t, (expanding .ksSbox 132).Inv ∧ step (expanding .ksSbox 132) = .next t :=
  ⟨_, witness_ksSbox_inv.2, rfl⟩

theorem witness_FaultedStateIsQuiescent : (State.reset.raise .noSchedule).faults = .noSchedule :: [] := by decide

theorem witness_IdleCoreKeepsState : ready.phase = .idle ∧ ready.faults = [] ∧ ready.host = [] := by decide

theorem witness_PlacedWordIsWritten : ready.faults = [] ∧ decodeTableWord 32 3 = some .decrypt ∧
    after (step (ready.withFetchWord 32 3)) (fun t => t.phase == .decMix32) = true := by decide

theorem witness_KeyValidChanges :
    (∃ t, step (readyWith (.write 0x08#8 4 1#32)) = .next t ∧
      (readyWith (.write 0x08#8 4 1#32)).status.keyValid ≠ t.status.keyValid) ∧
    ∃ t, step (expanding .ksSbox 132) = .next t ∧ (expanding .ksSbox 132).status.keyValid ≠ t.status.keyValid :=
  ⟨⟨_, rfl, by decide⟩, ⟨_, rfl, by decide⟩⟩

theorem witness_StickyStatusBits :
    (∃ t, step { encrypting .encFinal 31 .a with status := ⟨true, true, false, false, .none⟩ } = .next t ∧
      t.status.doutValid = true) ∧
    (∃ t, step { decrypting .decMix 0 .a with status := ⟨true, true, false, true, .none⟩ } = .next t ∧
      t.status.doutValid = true ∧ t.status.protoErr = true) ∧
    (∃ t, step (readyWith (.write 0x08#8 4 0#32)) = .next t ∧ ready.status.doutValid = true ∧ t.status.doutValid = true) ∧
    ∃ t, step { expanding .ksStep 0 with host := [wr .keyLen 0#32] } = .next t ∧
      (expanding .ksStep 0).status.protoErr = false ∧ t.status.protoErr = true :=
  ⟨⟨_, rfl, by decide⟩, ⟨_, rfl, by decide, by decide⟩, ⟨_, rfl, by decide, by decide⟩, ⟨_, rfl, by decide, by decide⟩⟩

theorem witness_FaultsAreNeverRemoved :
    (∃ t, exec .encrypt State.reset = .next t ∧ t.faults = [.noSchedule]) ∧
    (∃ t, State.reset.busWrite 0xFF#8 1 0#32 = .next t ∧ t.faults = [.busUnmapped 0xFF#8, .busWidth 0xFF#8 1]) ∧
    ∃ t, { expanding .ksStep 0 with faults := [.noSchedule] }.coreStep = .next t ∧ t.faults = [.noSchedule] :=
  ⟨⟨_, rfl, by decide⟩, ⟨_, rfl, by decide⟩, ⟨_, rfl, by decide⟩⟩

theorem witness_DoutWrittenOnlyAtCompletion :
    (∃ t, step (encrypting .encFinal 31 .a) = .next t ∧ t.dout ≠ (encrypting .encFinal 31 .a).dout) ∧
    ∃ t, step (decrypting .decMix 0 .a) = .next t ∧ t.dout ≠ (decrypting .decMix 0 .a).dout :=
  ⟨⟨_, rfl, by decide⟩, ⟨_, rfl, by decide⟩⟩

theorem witness_RoundKeysWrittenOnlyBySchedule :
    (∃ t, step (expanding .ksSbox 4) = .next t ∧ t.rk ≠ (expanding .ksSbox 4).rk) ∧
    ∃ t, step (expanding .ksSbox 132) = .next t ∧ t.rk ≠ (expanding .ksSbox 132).rk :=
  ⟨⟨_, rfl, by decide⟩, ⟨_, rfl, by decide⟩⟩

theorem witness_InputsWrittenOnlyByIdleHost :
    (∃ t, step (readyWith (.write (Reg.keyLen).offset 4 0#32)) = .next t ∧ t.keyLen ≠ ready.keyLen) ∧
    (∃ t, step (readyWith (.write (Reg.key 7).offset 4 0#32)) = .next t ∧ t.key ≠ ready.key) ∧
    (∃ t, step { State.reset with host := [wr (.din 3) 1#32] } = .next t ∧ t.din ≠ State.reset.din) ∧
    (∃ t, step { State.reset with host := [wr (.key 0) 0#32] } = .next t ∧ t.keyW ≠ State.reset.keyW) ∧
    ∃ t, step { State.reset with host := [wr (.din 0) 0#32] } = .next t ∧ t.dinW ≠ State.reset.dinW :=
  ⟨⟨_, rfl, by decide⟩, ⟨_, rfl, by decide⟩, ⟨_, rfl, by decide⟩, ⟨_, rfl, by decide⟩, ⟨_, rfl, by decide⟩⟩

theorem witness_window : (expanding .ksStep 0).Window katKey := by
  refine ⟨fun m => ?_, fun k hk => ?_⟩
  · show katKey.get m = (prekeys katKey 132).getD (0 + m.val) 0#32
    rw [Nat.zero_add, show (132 : Nat) = 0 + 132 from rfl, prekeys_stable katKey 0 132 (by omega)]
    revert m
    decide
  · have h0 : k.val < 0 := hk
    omega

theorem witness_PrekeyWindowTracksRecurrence :
    (∃ t, ready.Inv ∧ exec .setKey ready = .next t ∧ ready.phase ≠ .ksStep ∧ t.phase = .ksStep) ∧
    (∃ t, (expanding .ksStep 0).Inv ∧ (expanding .ksStep 0).phase = .ksStep ∧ (expanding .ksStep 0).Window katKey ∧
      step (expanding .ksStep 0) = .next t) :=
  ⟨⟨_, witness_ready_inv, rfl, by decide, rfl⟩, ⟨_, witness_ksStep_inv.1, rfl, witness_window, rfl⟩⟩

theorem witness_SetKeyBuildsSchedule :
    (readyWith (.write 0x08#8 4 1#32)).phase = .idle ∧ (readyWith (.write 0x08#8 4 1#32)).status.busy = false ∧
      (readyWith (.write 0x08#8 4 1#32)).faults = [] ∧ (readyWith (.write 0x08#8 4 1#32)).keyLen.toNat % 4 = 0 ∧
      (readyWith (.write 0x08#8 4 1#32)).keyLen.toNat ≤ 32 ∧
      (∀ i : Fin 8, i.val < 32 / 4 → (readyWith (.write 0x08#8 4 1#32)).keyW.get i = true) ∧
      (readyWith (.write 0x08#8 4 1#32)).host = [cmd 0x1#4] ∧
      (∀ i : Fin 8, i.val < State.reset.keyLen.toNat / 4 → State.reset.keyW.get i = true) := by decide

theorem witness_EncryptRunComputesEncrypt :
    (readyWith (.write 0x08#8 4 2#32)).phase = .idle ∧ (readyWith (.write 0x08#8 4 2#32)).status.busy = false ∧
      (readyWith (.write 0x08#8 4 2#32)).faults = [] ∧ (readyWith (.write 0x08#8 4 2#32)).status.keyValid = true ∧
      (∀ i : Fin 4, (readyWith (.write 0x08#8 4 2#32)).dinW.get i = true) ∧
      (readyWith (.write 0x08#8 4 2#32)).host = [cmd 0x2#4] := by decide

theorem witness_DecryptRunComputesDecrypt :
    (readyWith (.write 0x08#8 4 3#32)).phase = .idle ∧ (readyWith (.write 0x08#8 4 3#32)).status.busy = false ∧
      (readyWith (.write 0x08#8 4 3#32)).faults = [] ∧ (readyWith (.write 0x08#8 4 3#32)).status.keyValid = true ∧
      (∀ i : Fin 4, (readyWith (.write 0x08#8 4 3#32)).dinW.get i = true) ∧
      (readyWith (.write 0x08#8 4 3#32)).host = [cmd 0x3#4] := by decide

theorem witness_UnspecifiedStateUnobservable :
    ∃ s t s' : State, s.Inv ∧ t.Inv ∧ s.Alike t ∧ s.rk ≠ t.rk ∧ s.key ≠ t.key ∧ step s = .next s' :=
  ⟨State.reset, { State.reset with rk := Vector.replicate 33 mixed, key := katKey, bankA := pattern, act := .b }, _,
    ⟨by decide, trivial, by decide, by decide⟩, ⟨by decide, trivial, by decide, by decide⟩,
    ⟨rfl, rfl, rfl, rfl, rfl, rfl, rfl, rfl, by decide, by decide, by decide, by decide, by decide, by decide⟩, by decide,
    by decide, rfl⟩

theorem witness_SequencingIgnoresData :
    ∃ s' : State, (encrypting .encLt 30 .b).phase = { encrypting .encLt 30 .b with bankB := pattern }.phase ∧
      (encrypting .encLt 30 .b).coreStep = .next s' ∧ s'.phase = .encMix ∧ s'.rnd = 31 :=
  ⟨_, rfl, rfl, by decide, by decide⟩

theorem witness_CoreFollowsPhaseTable :
    (ready.Inv ∧ ready.phase = .idle) ∧ ((expanding .ksSbox 4).Inv ∧ (expanding .ksSbox 4).group = 0) ∧
      ((expanding .ksSbox 132).Inv ∧ (expanding .ksSbox 132).group = 32) ∧
      ((decrypting .decMix 31 .b).Inv ∧ (decrypting .decMix 31 .b).phase ≠ .idle) ∧
      (decrypting .decMix 0 .a).Inv ∧ (decrypting .decMix 0 .a).rnd.val = 0 :=
  ⟨⟨witness_ready_inv, rfl⟩, ⟨witness_ksSbox_inv.1, by decide⟩, ⟨witness_ksSbox_inv.2, by decide⟩,
    ⟨witness_decMix_inv.1, by decide⟩, witness_decMix_inv.2, rfl⟩

/-- The last KS_SBOX of the known-answer key's SET_KEY. -/
def lastGroup : State :=
  { expanding .ksSbox 132 with
    pw := Vector.ofFn fun m : Fin 8 => (prekeys katKey 132).getD (132 + m.val) 0#32, rk := roundKeys katKey }

theorem witness_window_last :
    ∃ t, lastGroup.Inv ∧ lastGroup.phase = .ksSbox ∧ lastGroup.Window katKey ∧ step lastGroup = .next t := by
  refine ⟨_, ⟨by decide, ⟨rfl, rfl, rfl, by decide⟩, by decide, by decide⟩, rfl, ⟨fun m => ?_, fun k _ => ?_⟩, rfl⟩
  · exact (Vector.get_eq_getElem _ _).trans (Vector.getElem_ofFn m.isLt)
  · exact (Vector.get_eq_getElem _ _).trans (Vector.getElem_ofFn k.isLt)

end Sys2Proof.Tests
end

