-- ==== Sys2Proof/Proofs/Packing.lean ====
section
/-! PROOF. Byte order (00_scope.md R11, 20_memory.md R55): the number laws of `le32` and `bytesLe`; that each undoes the
other follows from them. -/

namespace Sys2Proof

/-- A byte appended below a bit vector is the new lowest digit in base 2^8. -/
theorem toNat_append_byte {n : Nat} (x : BitVec n) (b : Byte) : (x ++ b).toNat = 2 ^ 8 * x.toNat + b.toNat := by
  rw [BitVec.toNat_append, ← Nat.shiftLeft_add_eq_or_of_lt b.isLt, Nat.shiftLeft_eq, Nat.mul_comm]

/-- R11 for every sequence and index: a byte past the end counts as zero. -/
theorem le32_toNat (m : List Byte) (i : Nat) :
    (le32 m i).toNat = (m.getD (4 * i) 0#8).toNat + 2 ^ 8 * (m.getD (4 * i + 1) 0#8).toNat
      + 2 ^ 16 * (m.getD (4 * i + 2) 0#8).toNat + 2 ^ 24 * (m.getD (4 * i + 3) 0#8).toNat := by
  unfold le32
  rw [toNat_append_byte, toNat_append_byte, toNat_append_byte]
  omega

theorem le32_toNat_of_lt {m : List Byte} {i : Nat} (h : 4 * i + 3 < m.length) :
    (le32 m i).toNat = m[4 * i].toNat + 2 ^ 8 * m[4 * i + 1].toNat + 2 ^ 16 * m[4 * i + 2].toNat
      + 2 ^ 24 * m[4 * i + 3].toNat := by
  rw [le32_toNat, List.getD_eq_getElem, List.getD_eq_getElem, List.getD_eq_getElem, List.getD_eq_getElem]

/-- The bytes of a word are its digits in base 2^8; the last needs no reduction, since a word is below 2^32. -/
theorem bytesLe_map_toNat (w : Word) :
    (bytesLe w).map BitVec.toNat =
      [w.toNat % 2 ^ 8, w.toNat / 2 ^ 8 % 2 ^ 8, w.toNat / 2 ^ 16 % 2 ^ 8, w.toNat / 2 ^ 24] := by
  have last : w.toNat / 2 ^ 24 % 2 ^ 8 = w.toNat / 2 ^ 24 := Nat.mod_eq_of_lt (by omega)
  simp only [bytesLe, List.map, BitVec.extractLsb'_toNat, Nat.shiftRight_eq_div_pow, last, Nat.pow_zero, Nat.div_one]

/-- Unpacking a word and packing its bytes gives the word: the digits of a number sum up to it. -/
theorem le32_bytesLe (w : Word) : le32 (bytesLe w) 0 = w := by
  apply BitVec.eq_of_toNat_eq
  rw [le32_toNat]
  simp only [bytesLe, List.getD_cons_zero, List.getD_cons_succ, Nat.mul_zero, Nat.zero_add, BitVec.extractLsb'_toNat,
    Nat.shiftRight_eq_div_pow]
  omega

/-- Packing word `i` and unpacking it gives its four bytes: digits in base 2^8 are unique. -/
theorem bytesLe_le32 {m : List Byte} {i : Nat} (h : 4 * i + 3 < m.length) :
    bytesLe (le32 m i) = [m[4 * i], m[4 * i + 1], m[4 * i + 2], m[4 * i + 3]] := by
  apply List.map_injective_iff.mpr (fun _ _ => BitVec.eq_of_toNat_eq)
  rw [bytesLe_map_toNat, le32_toNat_of_lt h]
  simp only [List.map, List.cons.injEq, and_true]
  omega

/-- The bytes of word `i` are the slice of the sequence from `4i` on. -/
theorem bytesLe_le32_eq_slice {m : List Byte} {i : Nat} (h : 4 * i + 3 < m.length) :
    bytesLe (le32 m i) = (m.drop (4 * i)).take 4 := by
  rw [bytesLe_le32 h, List.drop_eq_getElem_cons, List.drop_eq_getElem_cons, List.drop_eq_getElem_cons,
    List.drop_eq_getElem_cons]
  rfl

namespace Machine

/-- A 16-byte block is the four slices its words are packed from (20_memory.md R55). -/
theorem blockBytes_packBlock {pb : List Byte} (h : pb.length = 16) : blockBytes (packBlock pb) = pb := by
  have slice (i : Nat) (hi : i < 4) : bytesLe (le32 pb i) = (pb.drop (4 * i)).take 4 := bytesLe_le32_eq_slice (by omega)
  calc blockBytes (packBlock pb)
      = (pb.drop (4 * 0)).take 4 ++ (pb.drop (4 * 1)).take 4 ++ (pb.drop (4 * 2)).take 4 ++ (pb.drop (4 * 3)).take 4 := by
        rw [blockBytes, packBlock, slice 0 (by decide), slice 1 (by decide), slice 2 (by decide), slice 3 (by decide)]
    _ = pb.take (4 + 4 + 4 + 4) := by
        rw [List.take_add, List.take_add, List.take_add, Nat.mul_zero, List.drop_zero]
    _ = pb := List.take_of_length_le h.le

end Machine

/-- Settles O38: the number laws of `le32` and `bytesLe`, and packing undone by unpacking and back. -/
theorem littleEndianPacking : Obligations.LittleEndianPacking := by
  unfold Obligations.LittleEndianPacking
  exact ⟨fun _ _ h => le32_toNat_of_lt h, fun w => ⟨le32_bytesLe w, bytesLe_map_toNat w⟩,
    fun _ h => Machine.blockBytes_packBlock h⟩

end Sys2Proof
end

