-- ==== Sys2Proof/Proofs/StepEffects.lean ====
section
/-! PROOF. What the statements about steps share: the access split, what an acceptance step and a register's store can
do, and everything a host line and a micro-step of the core can do, each said once. -/

namespace Sys2Proof

/-- A word is its two fields, RSVD above OP (30_encoding.md R71). -/
theorem rsvdField_append_opField (c : Word) : rsvdField c ++ opField c = c := by
  ext i hi
  simp only [rsvdField, opField, BitVec.getElem_append, BitVec.getElem_extractLsb']
  split
  · rw [Nat.zero_add, BitVec.getLsbD_eq_getElem]
  · rw [Nat.add_sub_cancel' (by omega), BitVec.getLsbD_eq_getElem]

/-- A word that decodes to a command is that command's word (30_encoding.md R72, R75). -/
theorem eq_commandWord_of_decodeWord {c : Word} {i : Instr} (h : decodeWord c = .instr i) :
    ∃ op, opcode i = some op ∧ c = commandWord op := by
  have word (op : BitVec 4) (hr : rsvdField c = 0#28) (ho : opField c = op) : c = commandWord op := by
    rw [commandWord, ← hr, ← ho, rsvdField_append_opField]
  unfold decodeWord at h
  split at h
  · cases h
  · rename_i hr
    repeat' split at h
    all_goals cases h
    all_goals exact ⟨_, rfl, word _ (not_not.1 hr) ‹_›⟩

namespace Machine

/-- An access is dropped with a fault of its offset or width, or it is an aligned 32-bit access to a register
(20_memory.md R52, R53). -/
theorem access_cases (off : BitVec 8) (n : Nat) : accessFaults off n ≠ [] ∨ n = 4 ∧ ∃ r : Reg, off = r.offset := by
  by_cases h : accessFaults off n = []
  · obtain ⟨hn, r, hr⟩ := accessFaults_nil h
    exact Or.inr ⟨hn, r, Reg.offset_of_atOffset hr⟩
  · exact Or.inl h

/-- With BUSY = 0 a store changes at most the inputs and their written marks (10_state.md R30-R33, R39). -/
theorem State.writeReg_idle {s : State} (hb : s.status.busy = false) (r : Reg) (v : Word) :
    s.writeReg r v = { s with
      keyLen := (s.writeReg r v).keyLen, key := (s.writeReg r v).key, din := (s.writeReg r v).din,
      keyW := (s.writeReg r v).keyW, dinW := (s.writeReg r v).dinW } := by
  cases r <;> simp [State.writeReg, hb]

/-- With BUSY = 1 a store is the busy write, or the ignored write to a read-only register (10_state.md R28). -/
theorem State.writeReg_busy {s : State} (hb : s.status.busy = true) (r : Reg) (v : Word) :
    s.writeReg r v = s.busyWrite r v ∨ s.writeReg r v = s := by
  cases r <;> simp [State.writeReg, hb]

/-- The start of the expansion: what the acceptance of SET_KEY with a legal length comes to (43_key_schedule.md R183). -/
def State.startKey (s : State) : State :=
  { s.raiseAll (s.unwrittenKeys s.keyLen.toNat) with
    status := { s.status with keyValid := false, busy := true }
    opc := 0x1#4
    pw := padWords s.keyLen.toNat s.key
    stepIdx := 0
    phase := .ksStep }

/-- The start of the rounds: what the acceptance of ENCRYPT or DECRYPT with a schedule comes to
(44_round_network.md R212, R217). -/
def State.startBlock (s : State) (op : BitVec 4) (firstRound : Fin 33) (firstPhase : Phase) : State :=
  { s.raiseAll s.unwrittenDin with
    status := { s.status with busy := true }
    opc := op
    bankA := s.din
    act := .a
    rnd := firstRound
    phase := firstPhase }

theorem acceptSetKey_of_legal {s : State} (h : validate s.keyLen = none) : acceptSetKey s = s.startKey := by
  simp [acceptSetKey, h, State.startKey]

theorem acceptSetKey_of_illegal {s : State} {e : ErrCode} (h : validate s.keyLen = some e) :
    acceptSetKey s = s.complete e := by
  simp [acceptSetKey, h]

theorem acceptBlock_of_schedule {s : State} (h : s.status.keyValid = true) (op : BitVec 4) (r : Fin 33) (p : Phase) :
    acceptBlock op r p s = s.startBlock op r p := by
  simp [acceptBlock, h, State.startBlock]

theorem acceptBlock_of_no_schedule {s : State} (h : s.status.keyValid = false) (op : BitVec 4) (r : Fin 33) (p : Phase) :
    acceptBlock op r p s = (s.complete .noSchedule).raise .noSchedule := by
  simp [acceptBlock, h, State.noSchedule]

/-- What a host line can do to the state `s` without that line, by what it may change: the fault record, a variable, the
busy write, an input's store, or the acceptance step of a command (30_encoding.md R77, R78; 44_round_network.md R220). -/
inductive HostEffect (s : State) (op : HostOp) : State → Prop where
  | dropped (fs : List Fault) : HostEffect s op (s.raiseAll fs)
  | read (x : Nat) (v : Word) (fs : List Fault) : HostEffect s op ((s.setVar x v).raiseAll fs)
  | busyWrite (hb : s.status.busy = true) (r : Reg) (v : Word) : HostEffect s op (s.busyWrite r v)
  | store (hb : s.status.busy = false) (r : Reg) (v : Word) (hop : op = .write r.offset 4 v) :
    HostEffect s op (s.writeReg r v)
  | completed (hb : s.status.busy = false) (e : ErrCode) : HostEffect s op (s.complete e)
  | failed (hb : s.status.busy = false) (e : ErrCode) (f : Fault) : HostEffect s op ((s.complete e).raise f)
  | startKey (hb : s.status.busy = false) (hop : op = .write 0x08#8 4 0x00000001#32) (hv : validate s.keyLen = none) :
    HostEffect s op s.startKey
  | startEncrypt (hb : s.status.busy = false) (hk : s.status.keyValid = true) :
    HostEffect s op (s.startBlock 0x2#4 0 .encMix)
  | startDecrypt (hb : s.status.busy = false) (hk : s.status.keyValid = true) :
    HostEffect s op (s.startBlock 0x3#4 31 .decMix32)

/-- A word written to CMD while BUSY = 1 is the busy write of that word (44_round_network.md R220). -/
theorem writeCmd_busy {s : State} (hb : s.status.busy = true) (c : Word) : s.writeCmd c = .next (s.busyWrite .cmd c) := by
  unfold State.writeCmd
  cases hd : decodeWord c with
  | reject r => simp [State.illegalCommand, State.issue, hb]
  | instr i =>
    obtain ⟨op, ho, rfl⟩ := eq_commandWord_of_decodeWord hd
    cases i <;> cases ho <;>
      simp [exec, execNop, execSetKey, execEncrypt, execDecrypt, State.issue, hb]

/-- A word written to CMD while BUSY = 0 completes at once, with a fault or without one, or starts its command. -/
theorem writeCmd_effect {s t : State} {c : Word} (hb : s.status.busy = false) (h : s.writeCmd c = .next t) :
    HostEffect s (.write 0x08#8 4 c) t := by
  rw [writeCmd_idle hb] at h
  split at h <;> cases h
  case h_1 hd =>
    obtain ⟨op, ho, hc⟩ := eq_commandWord_of_decodeWord hd
    cases ho
    cases hv : validate s.keyLen with
    | some e => rw [acceptSetKey_of_illegal hv]; exact .completed hb e
    | none => rw [acceptSetKey_of_legal hv]; exact .startKey hb (by rw [hc]; rfl) hv
  case h_2 =>
    cases hk : s.status.keyValid with
    | true => rw [acceptBlock_of_schedule hk]; exact .startEncrypt hb hk
    | false => rw [acceptBlock_of_no_schedule hk]; exact .failed hb _ _
  case h_3 =>
    cases hk : s.status.keyValid with
    | true => rw [acceptBlock_of_schedule hk]; exact .startDecrypt hb hk
    | false => rw [acceptBlock_of_no_schedule hk]; exact .failed hb _ _
  case h_4 => exact .completed hb _
  case h_5 => exact .failed hb _ _

/-- A host step changes nothing, or it takes the next line off and has that line's effect. -/
theorem hostStep_effect {s t : State} (h : s.hostStep = .next t) :
    t = s ∨ ∃ l rest, s.host = l :: rest ∧ HostEffect { s with host := rest } l.op t := by
  rcases hostStep_outcomes h with ⟨rfl, -⟩ | ⟨l, rest, hl, ho⟩
  · exact Or.inl rfl
  · refine Or.inr ⟨l, rest, hl, ?_⟩
    rcases ho with ⟨off, n, v, fs, -, -, rfl⟩ | ⟨r, v, v', -, hb, rfl⟩ | ⟨r, v, hop, -, rfl⟩ | ⟨v, hop, hb, ht⟩ |
      ⟨x, v, fs, rfl⟩
    · exact .dropped fs
    · exact .busyWrite (s := { s with host := rest }) hb r v'
    · cases hb : s.status.busy with
      | false => exact .store (s := { s with host := rest }) hb r v hop
      | true =>
        rcases State.writeReg_busy (s := { s with host := rest }) hb r v with e | e <;> rw [e]
        · exact .busyWrite (s := { s with host := rest }) hb r v
        · exact .dropped []
    · rw [hop]
      exact writeCmd_effect hb (ht ▸ writeCmd_idle (s := { s with host := rest }) hb v)
    · exact .read x v fs

/-- The group's number needs no reduction: STEP is at most 132 (43_key_schedule.md R180). -/
theorem State.group_val (s : State) : s.group.val = s.stepIdx.val / 4 - 1 :=
  Nat.mod_eq_of_lt (by have := s.stepIdx.isLt; omega)

/-- The last group is the one of STEP = 132 (43_key_schedule.md R182). -/
theorem State.group_eq_lastKey (s : State) : s.group = lastKey ↔ s.stepIdx.val = 132 := by
  rw [Fin.ext_iff, s.group_val, show lastKey.val = 32 from rfl]
  omega

/-- KS_SBOX of the group that STEP has reached (43_key_schedule.md R180). -/
def State.storeRoundKey (s : State) : State :=
  { s with rk := s.rk.set s.group.val (sbox (groupBox s.group) s.pwGroup) s.group.isLt }

theorem State.storeRoundKey_get_self (s : State) :
    s.storeRoundKey.rk.get s.group = sbox (groupBox s.group) s.pwGroup :=
  Vector.get_set_self' _ _ _

theorem State.storeRoundKey_get_of_ne (s : State) {k : Fin 33} (h : k ≠ s.group) :
    s.storeRoundKey.rk.get k = s.rk.get k :=
  Vector.get_set_of_ne' _ _ h

/-- What the core's micro-step can do outside IDLE, by phase, before the next line's gap is spent
(44_round_network.md R219). -/
inductive CoreEffect (s : State) : State → Prop where
  | ksStep (hp : s.phase = .ksStep) (hs : s.stepIdx.val < 132) : CoreEffect s { s with
      pw := shiftWindow s.pw (nextPrekey s.pw s.stepIdx.val)
      stepIdx := ⟨s.stepIdx.val + 1, by omega⟩
      phase := if (s.stepIdx.val + 1) % 4 = 0 then .ksSbox else .ksStep }
  | ksSbox (hp : s.phase = .ksSbox) (hg : s.group ≠ lastKey) : CoreEffect s { s.storeRoundKey with phase := .ksStep }
  | ksLast (hp : s.phase = .ksSbox) (hg : s.group = lastKey) : CoreEffect s s.storeRoundKey.finishKey
  | encMix (hp : s.phase = .encMix) : CoreEffect s { s.inPlace (keymix s.rk s.rnd) with phase := .encSbox }
  | encSbox (hp : s.phase = .encSbox) : CoreEffect s { s.across (sbox (roundBox s.rnd)) with
      phase := if s.rnd.val < 31 then .encLt else .encFinal }
  | encLt (hp : s.phase = .encLt) : CoreEffect s { s.inPlace lt with
      rnd := Fin.ofNat 33 (s.rnd.val + 1)
      phase := .encMix }
  | encFinal (hp : s.phase = .encFinal) : CoreEffect s (s.inPlace (keymix s.rk lastKey)).finishBlock
  | decMix32 (hp : s.phase = .decMix32) : CoreEffect s { s.inPlace (keymix s.rk lastKey) with phase := .decIsbox }
  | decIlt (hp : s.phase = .decIlt) : CoreEffect s { s.inPlace ilt with phase := .decIsbox }
  | decIsbox (hp : s.phase = .decIsbox) : CoreEffect s { s.across (invSbox (roundBox s.rnd)) with phase := .decMix }
  | decMix (hp : s.phase = .decMix) (hr : s.rnd.val ≠ 0) : CoreEffect s { s.inPlace (keymix s.rk s.rnd) with
      rnd := Fin.ofNat 33 (s.rnd.val - 1)
      phase := .decIlt }
  | decLast (hp : s.phase = .decMix) (hr : s.rnd.val = 0) : CoreEffect s (s.inPlace (keymix s.rk s.rnd)).finishBlock

theorem CoreEffect.phase_ne_idle {s u : State} (h : CoreEffect s u) : s.phase ≠ .idle := by
  cases h <;> simp [*]

theorem coreStep_effect {s t : State} (h : s.coreStep = .next t) :
    (s.phase = .idle ∧ t = s) ∨ ∃ u, CoreEffect s u ∧ t = u.spendGap := by
  rcases coreStep_cases h with ⟨hp, rfl⟩ | ⟨hs, hp, rfl⟩ | ⟨hp, rfl⟩ | ⟨hp, rfl⟩ | ⟨hp, rfl⟩ | ⟨hp, rfl⟩ | ⟨hp, rfl⟩ |
    ⟨hp, rfl⟩ | ⟨hp, rfl⟩ | ⟨hp, rfl⟩ | ⟨hp, rfl⟩
  · exact Or.inl ⟨hp, rfl⟩
  · exact Or.inr ⟨_, .ksStep hp hs, rfl⟩
  · by_cases hg : s.group = lastKey
    · exact Or.inr ⟨_, .ksLast hp hg, by rw [if_pos hg]; rfl⟩
    · exact Or.inr ⟨_, .ksSbox hp hg, by rw [if_neg hg]; rfl⟩
  · exact Or.inr ⟨_, .encMix hp, rfl⟩
  · exact Or.inr ⟨_, .encSbox hp, rfl⟩
  · exact Or.inr ⟨_, .encLt hp, rfl⟩
  · exact Or.inr ⟨_, .encFinal hp, rfl⟩
  · exact Or.inr ⟨_, .decMix32 hp, rfl⟩
  · exact Or.inr ⟨_, .decIlt hp, rfl⟩
  · exact Or.inr ⟨_, .decIsbox hp, rfl⟩
  · by_cases hr : s.rnd.val = 0
    · exact Or.inr ⟨_, .decLast hp hr, by rw [if_pos hr]⟩
    · exact Or.inr ⟨_, .decMix hp hr, by rw [if_neg hr]⟩

/-- In each phase the core's micro-step is the phase's effect. -/
theorem CoreEffect.coreStep_eq {s u : State} (h : CoreEffect s u) : s.coreStep = .next u.spendGap := by
  have exec_ksSbox : exec (.ksSbox s.group) s = .next s.storeRoundKey := rfl
  cases h with
  | ksStep hp hs => simp [State.coreStep, State.microOp, State.sequence, exec, execKsStep, hp, hs]
  | ksSbox hp hg =>
    have hp' : s.storeRoundKey.phase = .ksSbox := hp
    have hg' : s.storeRoundKey.group ≠ lastKey := hg
    simp [State.coreStep, State.microOp, State.sequence, exec_ksSbox, hp, hp', hg']
  | ksLast hp hg =>
    have hp' : s.storeRoundKey.phase = .ksSbox := hp
    have hg' : s.storeRoundKey.group = lastKey := hg
    simp [State.coreStep, State.microOp, State.sequence, exec_ksSbox, hp, hp', hg']
  | _ => simp [State.coreStep, State.microOp, State.sequence, *]

/-- A step leaves a state without a recorded fault; it changes nothing, or it is a micro-step of the core outside IDLE, or it
takes the host's next line off and has that line's effect. -/
theorem step_effect {s t : State} (h : step s = .next t) :
    s.faults = [] ∧ (t = s ∨ (∃ u, CoreEffect s u ∧ t = u.spendGap) ∨
      ∃ l rest, s.host = l :: rest ∧ HostEffect { s with host := rest } l.op t) := by
  obtain ⟨hf, ⟨-, hh⟩ | ⟨hm, hc⟩ | ⟨-, rfl⟩⟩ := step_cases h
  · rcases hostStep_effect hh with ht | hl
    · exact ⟨hf, Or.inl ht⟩
    · exact ⟨hf, Or.inr (Or.inr hl)⟩
  · rcases coreStep_effect hc with ⟨hp, -⟩ | hu
    · exact absurd hp (mover_core hm)
    · exact ⟨hf, Or.inr (Or.inl hu)⟩
  · exact ⟨hf, Or.inl rfl⟩

/-- Where neither agent can move, the step keeps every piece of state (60_exceptions.md R269). -/
theorem step_of_neither {s : State} (hf : s.faults = []) (hm : s.mover = .neither) : step s = .next s := by
  simp [step, State.guardedStep, hf, State.agentStep, hm]

/-- A recorded fault is what the step answers (60_exceptions.md R255). -/
theorem step_of_faults {s : State} {f : Fault} {fs : List Fault} (h : s.faults = f :: fs) : step s = .fault f := by
  simp [step, State.guardedStep, h]

/-! ### Frames -/

/-- KEY_LEN, KEY, DIN and the written marks (10_state.md R30-R32, R39). -/
def State.inputs (s : State) : Word × Vector Word 8 × Quad × Vector Bool 8 × Vector Bool 4 :=
  (s.keyLen, s.key, s.din, s.keyW, s.dinW)

/-- What the invariant of the phases speaks of (10_state.md R36). -/
def State.control (s : State) : Bool × Bool × Phase × BitVec 4 × Fin 33 × Fin 133 × Bank :=
  (s.status.busy, s.status.keyValid, s.phase, s.opc, s.rnd, s.stepIdx, s.act)

/-- No host line touches DOUT, RK or DOUT_VALID (10_state.md R27, R33, R34). -/
theorem HostEffect.outputs {s t : State} {op : HostOp} (h : HostEffect s op t) :
    t.dout = s.dout ∧ t.rk = s.rk ∧ t.status.doutValid = s.status.doutValid := by
  cases h with
  | store hb r v hop => rw [State.writeReg_idle hb]; exact ⟨rfl, rfl, rfl⟩
  | _ => simp [State.startKey, State.startBlock]

/-- No micro-step of the core touches the inputs, FAULTS, the host's variables or PROTO_ERR. -/
theorem CoreEffect.frame {s u : State} (h : CoreEffect s u) :
    u.inputs = s.inputs ∧ u.faults = s.faults ∧ u.vars = s.vars ∧ u.status.protoErr = s.status.protoErr := by
  cases h <;> simp [State.inputs, State.storeRoundKey]

end Machine

end Sys2Proof
end

