-- ==== Sys2Proof/Proofs/Invariant.lean ====
section
/-! PROOF. The invariant of controller, fault record and host variables: at reset, and kept by every step. -/

namespace Sys2Proof.Machine

theorem encryptBank_succ (r : Nat) : encryptBank (r + 1) = (encryptBank r).other := by
  unfold encryptBank
  rcases Nat.mod_two_eq_zero_or_one r with h | h <;> simp [Nat.add_mod, h, Bank.other]

theorem decryptBank_succ (r : Nat) : decryptBank (r + 1) = (decryptBank r).other := by
  unfold decryptBank
  rcases Nat.mod_two_eq_zero_or_one r with h | h <;> simp [Nat.add_mod, h, Bank.other]

/-- In an idle core the phase asks nothing. -/
theorem State.Inv.of_idle {s : State} (hb : s.status.busy = false) (hp : s.phase = .idle) (hf : s.faults.Nodup)
    (hv : HostVars.wf s.vars = true) : s.Inv :=
  ⟨by simp [hb, hp], by simp [State.PhaseInv, hp], hf, hv⟩

/-- The invariant depends on the controller, the fault record and the host's variables alone. -/
theorem State.Inv.of_control {s t : State} (h : s.Inv) (hc : t.control = s.control) (hf : t.faults.Nodup)
    (hv : HostVars.wf t.vars = true) : t.Inv := by
  simp only [State.control, Prod.mk.injEq] at hc
  obtain ⟨hb, hk, hp, ho, hr, hs, ha⟩ := hc
  refine ⟨by rw [hb, hp]; exact h.busy, ?_, hf, hv⟩
  have phase := h.phase
  unfold State.PhaseInv at phase ⊢
  rwa [hp, hk, ho, hs, hr, ha]

theorem State.Inv.idle_of_not_busy {s : State} (h : s.Inv) (hb : s.status.busy = false) : s.phase = .idle := by
  by_contra hp
  rw [h.busy.2 hp] at hb
  cases hb

/-- Every host line keeps the invariant: it leaves the controller alone, or it completes or starts a command in an idle
core. -/
theorem HostEffect.keeps_inv {s t : State} {op : HostOp} (he : HostEffect s op t) (h : s.Inv) : t.Inv := by
  have idle := h.idle_of_not_busy
  cases he with
  | dropped fs => exact h.of_control (by simp [State.control]) (State.raiseAll_nodup fs h.faults) (by simpa using h.vars)
  | read x v fs =>
    exact h.of_control (by simp [State.control]) (State.raiseAll_nodup fs h.faults)
      (by simpa using HostVars.wf_set x v _ h.vars)
  | busyWrite hb r v => exact h.of_control (by simp [State.control]) (State.raise_nodup _ h.faults) h.vars
  | store hb r v hop =>
    rw [State.writeReg_idle hb]
    exact h.of_control rfl h.faults h.vars
  | completed hb e => exact .of_idle rfl (idle hb) h.faults h.vars
  | failed hb e f => exact .of_idle rfl (idle hb) (State.raise_nodup f h.faults) h.vars
  | startKey hb hop hv =>
    exact ⟨by simp [State.startKey], ⟨rfl, rfl, Nat.zero_le _⟩, State.raiseAll_nodup _ h.faults,
      by simpa [State.startKey] using h.vars⟩
  | startEncrypt hb hk =>
    exact ⟨by simp [State.startBlock], ⟨hk, rfl, Nat.zero_le _, rfl⟩, State.raiseAll_nodup _ h.faults,
      by simpa [State.startBlock] using h.vars⟩
  | startDecrypt hb hk =>
    exact ⟨by simp [State.startBlock], ⟨hk, rfl, rfl, rfl⟩, State.raiseAll_nodup _ h.faults,
      by simpa [State.startBlock] using h.vars⟩

/-- BUSY stays set until the core is back in IDLE (44_round_network.md R219). -/
theorem CoreEffect.busy_iff {s u : State} (hc : CoreEffect s u) (hb : s.status.busy = true) :
    u.status.busy = true ↔ u.phase ≠ .idle := by
  cases hc with
  | ksStep hp hs => simp only [hb, true_iff]; split <;> simp
  | encSbox hp => simp only [State.across_status, hb, true_iff]; split <;> simp
  | _ => simp [State.storeRoundKey, hb]

/-- Each phase leaves to the next what that phase asks (44_round_network.md R204, R207, R215, R219). -/
theorem CoreEffect.keeps_phaseInv {s u : State} (hc : CoreEffect s u) (h : s.PhaseInv) : u.PhaseInv := by
  cases hc with
  | ksStep hp hs =>
    simp only [State.PhaseInv, hp] at h
    obtain ⟨hk, ho, -⟩ := h
    by_cases hm : (s.stepIdx.val + 1) % 4 = 0
    · simp only [State.PhaseInv, if_pos hm]
      exact ⟨hk, ho, hm, by omega⟩
    · simp only [State.PhaseInv, if_neg hm]
      exact ⟨hk, ho, by omega⟩
  | ksSbox hp hg =>
    simp only [State.PhaseInv, hp] at h
    obtain ⟨hk, ho, -, -⟩ := h
    have hs : s.stepIdx.val ≠ 132 := fun hs => hg (s.group_eq_lastKey.2 hs)
    exact ⟨hk, ho, show s.stepIdx.val ≤ 131 by omega⟩
  | ksLast hp hg => trivial
  | encMix hp => simpa [State.PhaseInv, hp] using h
  | encSbox hp =>
    simp only [State.PhaseInv, hp] at h
    obtain ⟨hk, ho, hr, ha⟩ := h
    by_cases hl : s.rnd.val < 31
    · simpa [State.PhaseInv, hl, hk, ho, ha] using by omega
    · have hr' : s.rnd.val = 31 := by omega
      simp [State.PhaseInv, hk, ho, ha, hr', encryptBank, Bank.other]
  | encLt hp =>
    simp only [State.PhaseInv, hp] at h
    obtain ⟨hk, ho, hr, ha⟩ := h
    have hr' : (Fin.ofNat 33 (s.rnd.val + 1)).val = s.rnd.val + 1 := Nat.mod_eq_of_lt (by omega)
    simp only [State.PhaseInv, State.inPlace_status, State.inPlace_opc, State.inPlace_act, hr', encryptBank_succ]
    exact ⟨hk, ho, by omega, ha⟩
  | encFinal hp => trivial
  | decMix32 hp =>
    simp only [State.PhaseInv, hp] at h
    obtain ⟨hk, ho, hr, ha⟩ := h
    simp [State.PhaseInv, hk, ho, hr, ha, decryptBank]
  | decIlt hp =>
    simp only [State.PhaseInv, hp] at h
    obtain ⟨hk, ho, hr, ha⟩ := h
    simpa [State.PhaseInv, hk, ho, ha] using by omega
  | decIsbox hp =>
    simp only [State.PhaseInv, hp] at h
    obtain ⟨hk, ho, hr, ha⟩ := h
    simpa [State.PhaseInv, hk, ho, ha] using by omega
  | decMix hp hr =>
    simp only [State.PhaseInv, hp] at h
    obtain ⟨hk, ho, hl, ha⟩ := h
    have hr' : (Fin.ofNat 33 (s.rnd.val - 1)).val = s.rnd.val - 1 := Nat.mod_eq_of_lt (by omega)
    have bank : s.act = decryptBank (s.rnd.val - 1) := by
      rw [ha, show s.rnd.val = s.rnd.val - 1 + 1 by omega, decryptBank_succ, Bank.other_other, Nat.add_sub_cancel]
    simp only [State.PhaseInv, State.inPlace_status, State.inPlace_opc, State.inPlace_act, hr']
    exact ⟨hk, ho, by omega, bank⟩
  | decLast hp hr => trivial

/-- Outside IDLE, every micro-step of the core keeps the invariant. -/
theorem CoreEffect.keeps_inv {s u : State} (hc : CoreEffect s u) (h : s.Inv) : u.Inv := by
  obtain ⟨-, hf, hv, -⟩ := hc.frame
  exact ⟨hc.busy_iff (h.busy.2 hc.phase_ne_idle), hc.keeps_phaseInv h.phase, hf ▸ h.faults, hv ▸ h.vars⟩

theorem step_keeps_inv {s t : State} (h : s.Inv) (hstep : step s = .next t) : t.Inv := by
  obtain ⟨-, rfl | ⟨u, hu, rfl⟩ | ⟨l, rest, -, hl⟩⟩ := step_effect hstep
  · exact h
  · have hi := hu.keeps_inv h
    exact hi.of_control (by simp [State.control]) (by simpa using hi.faults) (by simpa using hi.vars)
  · exact hl.keeps_inv (h.of_control rfl h.faults h.vars)

/-- Settles O52: the host's lines and the core's micro-steps each keep the invariant. -/
theorem stepKeepsInvariant : Obligations.StepKeepsInvariant := by
  unfold Obligations.StepKeepsInvariant
  exact fun _ _ => step_keeps_inv

/-- Settles O2: at reset the core is idle, and no fault and no variable is there. -/
theorem resetMeetsInvariant : Obligations.ResetMeetsInvariant := by
  unfold Obligations.ResetMeetsInvariant
  exact .of_idle rfl rfl List.nodup_nil rfl

end Sys2Proof.Machine
end

