-- ==== Sys2Proof/Proofs/StepSafety.lean ====
section
/-! PROOF. What a step must be when it changes KEY_VALID, DOUT_VALID, PROTO_ERR, DOUT, RK or the inputs (10_state.md
R26-R40), and that no step removes a fault. -/

namespace Sys2Proof.Machine

/-! ### Which effect changes what -/

/-- A host line changes KEY_VALID only where SET_KEY starts the expansion (10_state.md R26). -/
theorem HostEffect.keyValid {s t : State} {op : HostOp} (h : HostEffect s op t) :
    t.status.keyValid = s.status.keyValid ∨
      (s.status.busy = false ∧ op = .write 0x08#8 4 0x00000001#32 ∧ validate s.keyLen = none ∧ t = s.startKey) := by
  cases h with
  | store hb r v hop => rw [State.writeReg_idle hb]; exact Or.inl rfl
  | startKey hb hop hv => exact Or.inr ⟨hb, hop, hv, rfl⟩
  | _ => simp [State.startBlock]

/-- A micro-step changes KEY_VALID only with the last round key (10_state.md R26). -/
theorem CoreEffect.keyValid {s u : State} (h : CoreEffect s u) :
    u.status.keyValid = s.status.keyValid ∨
      (s.phase = .ksSbox ∧ s.stepIdx.val = 132 ∧ u.status.keyValid = true ∧ u.phase = .idle ∧
        u.status.err = .none) := by
  cases h with
  | ksLast hp hg => exact Or.inr ⟨hp, s.group_eq_lastKey.1 hg, rfl, rfl, rfl⟩
  | _ => simp [State.storeRoundKey]

/-- A host line changes PROTO_ERR only by a busy write (10_state.md R28). -/
theorem HostEffect.protoErr {s t : State} {op : HostOp} (h : HostEffect s op t) :
    t.status.protoErr = s.status.protoErr ∨ (s.status.busy = true ∧ ∃ r v, t = s.busyWrite r v) := by
  cases h with
  | busyWrite hb r v => exact Or.inr ⟨hb, r, v, rfl⟩
  | store hb r v hop => rw [State.writeReg_idle hb]; exact Or.inl rfl
  | _ => simp [State.startKey, State.startBlock]

/-- A host line changes the inputs only by a store with BUSY = 0 (10_state.md R28, R39, R40). -/
theorem HostEffect.inputs {s t : State} {op : HostOp} (h : HostEffect s op t) :
    t.inputs = s.inputs ∨
      (s.status.busy = false ∧ ∃ r v, op = .write (Reg.offset r) 4 v ∧ t = s.writeReg r v) := by
  cases h with
  | store hb r v hop => exact Or.inr ⟨hb, r, v, hop, rfl⟩
  | _ => simp [State.inputs, State.startKey, State.startBlock]

/-- A micro-step leaves DOUT and DOUT_VALID, or it ends a block command with the working state in DOUT
(44_round_network.md R207, R215). -/
theorem CoreEffect.dout {s u : State} (h : CoreEffect s u) :
    (u.dout = s.dout ∧ u.status.doutValid = s.status.doutValid) ∨
      ((s.phase = .encFinal ∨ s.phase = .decMix ∧ s.rnd.val = 0) ∧ u.phase = .idle ∧ u.dout = u.active ∧
        u.status = { s.status with busy := false, doutValid := true, err := .none }) := by
  cases h with
  | encFinal hp => exact Or.inr ⟨Or.inl hp, rfl, rfl, by simp⟩
  | decLast hp hr => exact Or.inr ⟨Or.inr ⟨hp, hr⟩, rfl, rfl, by simp⟩
  | _ => simp [State.storeRoundKey]

/-- A micro-step leaves RK, or it is KS_SBOX and stores the group's round key (10_state.md R34). -/
theorem CoreEffect.rk {s u : State} (h : CoreEffect s u) :
    u.rk = s.rk ∨ (s.phase = .ksSbox ∧ u.rk = s.storeRoundKey.rk) := by
  cases h with
  | ksSbox hp hg => exact Or.inr ⟨hp, rfl⟩
  | ksLast hp hg => exact Or.inr ⟨hp, rfl⟩
  | _ => simp

@[simp] theorem State.spendGap_active (s : State) : s.spendGap.active = s.active := by
  simp [State.active, State.bank]

@[simp] theorem State.spendGap_inputs (s : State) : s.spendGap.inputs = s.inputs := by
  simp [State.inputs]

/-! ### The statements about steps -/

/-- Settles O45: the two effects that change KEY_VALID. -/
theorem keyValidChanges : Obligations.KeyValidChanges := by
  unfold Obligations.KeyValidChanges
  intro s t h hk
  obtain ⟨-, rfl | ⟨u, hu, rfl⟩ | ⟨⟨g, op⟩, rest, hl, he⟩⟩ := step_effect h
  · exact absurd rfl hk
  · rw [State.spendGap_status] at hk
    obtain ⟨hp, hs, hv, hi, herr⟩ := hu.keyValid.resolve_left (Ne.symm hk)
    exact Or.inr ⟨by simpa using hv, hp, hs, by simpa using hi, by simpa using herr⟩
  · obtain ⟨hb, rfl, hv, rfl⟩ := he.keyValid.resolve_left (Ne.symm hk)
    exact Or.inl ⟨rfl, hb, rfl, rfl, rfl, hv, g, rest, hl⟩

/-- A busy write into an empty fault record leaves exactly its own fault (60_exceptions.md R256). -/
theorem State.busyWrite_faults {s : State} (h : s.faults = []) (r : Reg) (v : Word) :
    (s.busyWrite r v).faults = [.busyWrite r v] := by
  simp [State.busyWrite, State.raise_faults, h]

/-- Settles O46: DOUT_VALID changes only at the end of a block command, PROTO_ERR only by a busy write. -/
theorem stickyStatusBits : Obligations.StickyStatusBits := by
  unfold Obligations.StickyStatusBits
  intro s t h
  obtain ⟨hf, rfl | ⟨u, hu, rfl⟩ | ⟨l, rest, -, he⟩⟩ := step_effect h
  · simp_all
  · obtain ⟨-, -, -, hpe⟩ := hu.frame
    simp only [State.spendGap_status, State.spendGap_phase, hpe]
    rcases hu.dout with ⟨-, hd⟩ | ⟨hp, hi, -, hst⟩
    · simp_all
    · refine ⟨fun _ => by rw [hst], fun _ _ => ⟨hp.imp_right And.left, hi, by rw [hst], by rw [hst]⟩, id, ?_⟩
      simp_all
  · obtain ⟨-, -, hd⟩ := he.outputs
    rcases he.protoErr with hpe | ⟨hb, r, v, rfl⟩
    · simp_all
    · have hfaults := State.busyWrite_faults (s := { s with host := rest }) hf r v
      exact ⟨id, by simp_all, fun _ => rfl, fun _ _ => ⟨hb, r, v, hfaults⟩⟩

/-- Settles O48: DOUT changes only at the end of a block command. -/
theorem doutWrittenOnlyAtCompletion : Obligations.DoutWrittenOnlyAtCompletion := by
  unfold Obligations.DoutWrittenOnlyAtCompletion
  intro s t h hd
  obtain ⟨-, rfl | ⟨u, hu, rfl⟩ | ⟨l, rest, -, he⟩⟩ := step_effect h
  · exact absurd rfl hd
  · simp only [State.spendGap_dout, State.spendGap_phase, State.spendGap_active, State.spendGap_status] at hd ⊢
    exact hu.dout.resolve_left fun same => hd same.1
  · obtain ⟨hdout, -, -⟩ := he.outputs
    exact absurd hdout hd

/-- Settles O49: RK changes only by KS_SBOX, which stores one round key. -/
theorem roundKeysWrittenOnlyBySchedule : Obligations.RoundKeysWrittenOnlyBySchedule := by
  unfold Obligations.RoundKeysWrittenOnlyBySchedule
  intro s t h hrk
  obtain ⟨-, rfl | ⟨u, hu, rfl⟩ | ⟨l, rest, -, he⟩⟩ := step_effect h
  · exact absurd rfl hrk
  · simp only [State.spendGap_rk] at hrk ⊢
    obtain ⟨hp, hstore⟩ := hu.rk.resolve_left hrk
    exact ⟨hp, fun k hk => hstore ▸ s.storeRoundKey_get_of_ne hk⟩
  · obtain ⟨-, same, -⟩ := he.outputs
    exact absurd same hrk

/-- Settles O50: the inputs change only by a host line that is a store with BUSY = 0. -/
theorem inputsWrittenOnlyByIdleHost : Obligations.InputsWrittenOnlyByIdleHost := by
  unfold Obligations.InputsWrittenOnlyByIdleHost
  intro s t h hchange
  have hin : t.inputs ≠ s.inputs := by
    intro same
    simp_all [State.inputs]
  obtain ⟨-, rfl | ⟨u, hu, rfl⟩ | ⟨⟨g, op⟩, rest, hl, he⟩⟩ := step_effect h
  · exact absurd rfl hin
  · obtain ⟨same, -⟩ := hu.frame
    exact absurd (u.spendGap_inputs.trans same) hin
  · obtain ⟨hb, r, v, rfl, ht⟩ := he.inputs.resolve_left hin
    exact ⟨hb, g, r, v, rest, hl, ht⟩

/-! ### The fault record only grows -/

theorem State.busyWrite_prefix (s : State) (r : Reg) (v : Word) : s.faults <+: (s.busyWrite r v).faults :=
  State.raise_prefix _ _

theorem State.issue_prefix {s t : State} (c : Word) (h : s.faults <+: t.faults) : s.faults <+: (s.issue c t).faults := by
  obtain ⟨-, e⟩ | ⟨-, e⟩ := s.issue_cases c t <;> rw [e]
  · exact s.busyWrite_prefix .cmd c
  · exact h

theorem acceptSetKey_prefix (s : State) : s.faults <+: (acceptSetKey s).faults := by
  cases hv : validate s.keyLen with
  | some e => rw [acceptSetKey_of_illegal hv]; exact List.prefix_rfl
  | none => rw [acceptSetKey_of_legal hv]; exact s.raiseAll_prefix _

theorem acceptBlock_prefix (s : State) (op : BitVec 4) (r : Fin 33) (p : Phase) :
    s.faults <+: (acceptBlock op r p s).faults := by
  cases hk : s.status.keyValid with
  | true => rw [acceptBlock_of_schedule hk]; exact s.raiseAll_prefix _
  | false => rw [acceptBlock_of_no_schedule hk]; exact (s.complete .noSchedule).raise_prefix _

/-- No instruction removes a fault: the commands and KS_PAD may raise some, the other operations leave the record. -/
theorem exec_prefix {i : Instr} {s t : State} (h : exec i s = .next t) : s.faults <+: t.faults := by
  cases i
  case nop => cases h; exact State.issue_prefix _ List.prefix_rfl
  case setKey => cases h; exact State.issue_prefix _ (acceptSetKey_prefix s)
  case encrypt => cases h; exact State.issue_prefix _ (acceptBlock_prefix s _ _ _)
  case decrypt => cases h; exact State.issue_prefix _ (acceptBlock_prefix s _ _ _)
  case rotl32 | rotr32 =>
    simp only [exec, execRotl32, execRotr32] at h
    split at h <;> cases h
    exact List.prefix_rfl
  case ksPad =>
    simp only [exec, execKsPad] at h
    split at h <;> cases h
    exact s.raiseAll_prefix _
  case ksStep =>
    simp only [exec, execKsStep] at h
    split at h <;> cases h
    exact List.prefix_rfl
  case shl32 | bswap32 | ksSbox => cases h; exact List.prefix_rfl
  all_goals
    cases h
    simp

theorem busWrite_prefix {s t : State} {off : BitVec 8} {n : Nat} {v : Word} (h : s.busWrite off n v = .next t) :
    s.faults <+: t.faults := by
  rcases busWrite_cases h with ⟨fs, -, -, rfl⟩ | ⟨-, -, hc⟩ | ⟨-, r, -, -, rfl⟩
  · exact s.raiseAll_prefix fs
  · unfold State.writeCmd at hc
    split at hc
    · exact exec_prefix hc
    · cases hc
      exact State.issue_prefix _ ((s.complete .illegalCommand).raise_prefix _)
  · cases hb : s.status.busy with
    | false => rw [State.writeReg_idle hb]
    | true =>
      obtain e | e := State.writeReg_busy hb r v <;> rw [e]
      exact s.busyWrite_prefix r v

theorem busRead_prefix (s : State) (off : BitVec 8) (n x : Nat) : s.faults <+: (s.busRead off n x).faults := by
  obtain ⟨r, -, -, e⟩ | ⟨fs, -, -, e⟩ := busRead_cases s off n x <;> rw [e]
  · exact (s.setVar x (s.readWord r)).raiseAll_prefix _
  · exact (s.setVar x 0#32).raiseAll_prefix _

/-- Settles O47: instructions and bus accesses only append to FAULTS, and the core does not touch it. -/
theorem faultsAreNeverRemoved : Obligations.FaultsAreNeverRemoved := by
  unfold Obligations.FaultsAreNeverRemoved
  refine ⟨rfl, fun _ _ _ => exec_prefix, fun _ _ _ _ _ => busWrite_prefix, busRead_prefix, fun s t h => ?_⟩
  obtain ⟨-, rfl⟩ | ⟨u, hu, rfl⟩ := coreStep_effect h
  · rfl
  · obtain ⟨-, hf, -⟩ := hu.frame
    rw [State.spendGap_faults, hf]

end Sys2Proof.Machine
end

