-- ==== Sys2Proof/Proofs/RegisterAccess.lean ====
section
/-! PROOF. The registers of the window: the values of reset, what a read gives and a write stores, the layout of STATUS
(10_state.md R20-R41; 20_memory.md R58). -/

namespace Sys2Proof.Machine

/-! ### Reset -/

theorem reset_status_word : State.reset.status.word = 0#32 := by decide

/-- Settles O1: a reset of any state leaves the fields of `State.reset`, but for the host's own. -/
theorem resetLeavesStatedValues : Obligations.ResetLeavesStatedValues := by
  unfold Obligations.ResetLeavesStatedValues
  have marks (n : Nat) (i : Fin n) : (Vector.replicate n false).get i = false := by simp [Vector.get_eq_getElem]
  rintro s r (rfl | rfl) <;> exact ⟨reset_status_word, rfl, rfl, rfl, rfl, marks 8, marks 4, rfl, rfl⟩

/-! ### Reads -/

/-- The variable a read fills holds the register's word. -/
theorem busRead_offset_get (s : State) (r : Reg) (x : Nat) :
    HostVars.get x (s.busRead r.offset 4 x).vars = some (s.readWord r) := by
  rw [busRead_offset, State.raiseAll_vars, State.setVar_vars, HostVars.get_set_self]

/-- A read of a written input, of DOUT with a result, or of another register records no fault. -/
theorem readFaults_eq_nil {s : State} {r : Reg} (hd : ∀ i, r = .din i → s.dinW.get i = true)
    (ho : ∀ i, r = .dout i → s.status.doutValid = true) : s.readFaults r = [] := by
  cases r with
  | din i => exact if_pos (hd i rfl)
  | dout i => exact if_pos (ho i rfl)
  | _ => rfl

/-- Settles O30: a read fills its variable and records the register's faults. -/
theorem registerReads : Obligations.RegisterReads := by
  unfold Obligations.RegisterReads
  intro s r x
  refine ⟨?_, fun y hy => ?_, ?_, fun hd ho => ?_⟩
  · rw [busRead_offset_get]
    cases r <;> rfl
  · rw [busRead_offset, State.raiseAll_vars, State.setVar_vars, HostVars.get_set_of_ne _ _ hy]
  · rw [busRead_offset, State.raiseAll_vars]
    exact State.raiseAll_eq _ _
  · rw [busRead_offset, readFaults_eq_nil hd ho, State.raiseAll_nil, State.setVar_faults]

/-- Settles O31: the constants are the words of the registers at 0x00 and 0x04, which no write reaches. -/
theorem constantRegisters : Obligations.ConstantRegisters := by
  unfold Obligations.ConstantRegisters
  exact fun s v x => ⟨busRead_offset_get s .blockSize x, busRead_offset_get s .keySize x,
    busWrite_offset s .blockSize v, busWrite_offset s .keySize v⟩

/-- Settles O32: a dropped read gives zero, and no register's word or fault is taken from KEY, RK, PW or the banks. -/
theorem keyMaterialUnreadable : Obligations.KeyMaterialUnreadable := by
  unfold Obligations.KeyMaterialUnreadable
  intro s off n x key rk pw a b
  rcases access_cases off n with hf | ⟨rfl, r, rfl⟩
  · rw [busRead_dropped _ x hf, busRead_dropped _ x hf, State.raiseAll_vars, State.raiseAll_vars]
    exact ⟨rfl, State.raiseAll_congr _ rfl⟩
  · have word : { s with key := key, rk := rk, pw := pw, bankA := a, bankB := b }.readWord r = s.readWord r := by
      cases r <;> rfl
    have faults : { s with key := key, rk := rk, pw := pw, bankA := a, bankB := b }.readFaults r = s.readFaults r := by
      cases r <;> rfl
    rw [busRead_offset, busRead_offset, word, faults, State.raiseAll_vars, State.raiseAll_vars]
    exact ⟨rfl, State.raiseAll_congr _ rfl⟩

/-! ### Writes -/

theorem busWrite_keyLen {s : State} (hb : s.status.busy = false) (v : Word) :
    s.busWrite (Reg.offset .keyLen) 4 v = .next { s with keyLen := v } := by
  simp [busWrite_offset, State.writeReg, hb]

theorem busWrite_key {s : State} (hb : s.status.busy = false) (i : Fin 8) (v : Word) :
    s.busWrite (Reg.offset (.key i)) 4 v =
      .next { s with key := s.key.set i.val v i.isLt, keyW := s.keyW.set i.val true i.isLt } := by
  simp [busWrite_offset, State.writeReg, hb]

theorem busWrite_din {s : State} (hb : s.status.busy = false) (i : Fin 4) (v : Word) :
    s.busWrite (Reg.offset (.din i)) 4 v = .next { s with din := s.din.set i v, dinW := s.dinW.set i.val true i.isLt } := by
  simp [busWrite_offset, State.writeReg, hb]

/-- Settles O37: each store reads back and leaves the other words and marks. -/
theorem hostWritesStore : Obligations.HostWritesStore := by
  unfold Obligations.HostWritesStore
  intro s v x hb
  refine ⟨⟨_, busWrite_keyLen hb v, rfl, busRead_offset_get _ .keyLen x⟩, fun i => ?_, fun i => ?_,
    busWrite_offset s .status v, fun i => busWrite_offset s (.dout i) v⟩
  · exact ⟨_, busWrite_key hb i v, Vector.get_set_self' _ i v, Vector.get_set_self' _ i true,
      fun j hj => ⟨Vector.get_set_of_ne' _ v hj, Vector.get_set_of_ne' _ true hj⟩, rfl⟩
  · refine ⟨_, busWrite_din hb i v, Quad.get_set_self _ i v, ?_, Vector.get_set_self' _ i true,
      fun j hj => ⟨Quad.get_set_of_ne _ v hj, Vector.get_set_of_ne' _ true hj⟩, rfl⟩
    rw [busRead_offset_get]
    exact congrArg some (Quad.get_set_self _ i v)

/-! ### STATUS -/

/-- A bit vector appended below another holds the low digits. -/
theorem toNat_append_eq {m n : Nat} (x : BitVec m) (y : BitVec n) : (x ++ y).toNat = 2 ^ n * x.toNat + y.toNat := by
  rw [BitVec.toNat_append, ← Nat.shiftLeft_add_eq_or_of_lt y.isLt, Nat.shiftLeft_eq, Nat.mul_comm]

/-- The STATUS word as a number: its four flags, and the code of ERR from bit 8 on (10_state.md R24). -/
theorem Status.word_toNat (t : Status) :
    t.word.toNat = t.busy.toNat + 2 * t.keyValid.toNat + 4 * t.doutValid.toNat + 8 * t.protoErr.toNat
      + 256 * t.err.code.toNat := by
  unfold Status.word
  simp only [toNat_append_eq, BitVec.toNat_ofBool, BitVec.toNat_ofNat]
  omega

/-- The four flags are the lowest bits of STATUS (10_state.md R24). -/
theorem Status.word_flags (t : Status) :
    t.word.getLsbD 0 = t.busy ∧ t.word.getLsbD 1 = t.keyValid ∧ t.word.getLsbD 2 = t.doutValid ∧
      t.word.getLsbD 3 = t.protoErr := by
  simp only [Status.word, BitVec.getLsbD_append]
  simp

/-- Above the flags STATUS holds the code of ERR between two zero fields (10_state.md R24). -/
theorem Status.word_fields (t : Status) :
    t.word.extractLsb' 4 4 = 0#4 ∧ t.word.extractLsb' 8 4 = t.err.code ∧ t.word.extractLsb' 12 20 = 0#20 := by
  have hb := t.busy.toNat_lt
  have hk := t.keyValid.toNat_lt
  have hd := t.doutValid.toNat_lt
  have hp := t.protoErr.toNat_lt
  have he := t.err.code.isLt
  refine ⟨BitVec.eq_of_toNat_eq ?_, BitVec.eq_of_toNat_eq ?_, BitVec.eq_of_toNat_eq ?_⟩ <;>
    rw [BitVec.extractLsb'_toNat, Nat.shiftRight_eq_div_pow, t.word_toNat]
  · rw [BitVec.toNat_ofNat]
    omega
  · omega
  · rw [BitVec.toNat_ofNat]
    omega

theorem ErrCode.code_lt (e : ErrCode) : e.code.toNat < 5 := by
  cases e <;> decide

/-- Settles O51: the fields of the STATUS word, the numbers of its codes, and its register. -/
theorem statusWordLayout : Obligations.StatusWordLayout := by
  unfold Obligations.StatusWordLayout
  refine ⟨reset_status_word, fun t => ?_, rfl, rfl, rfl, rfl, rfl, fun t => ?_,
    fun s v x => ⟨busRead_offset_get s .status x, busWrite_offset s .status v⟩⟩
  · obtain ⟨hb, hk, hd, hp⟩ := t.word_flags
    exact ⟨hb, hk, hd, hp, t.word_fields⟩
  · obtain ⟨-, code, -⟩ := t.word_fields
    rw [code]
    exact t.err.code_lt

end Sys2Proof.Machine
end

