-- ==== Sys2Proof/Proofs/Unobservable.lean ====
section
/-! PROOF. States that agree on everything a rule lets be observed take steps that agree on it again: one lemma per named
operation, then the host's lines and the core's micro-steps. -/

namespace Sys2Proof.Machine

/-- What is left of the agreement when a step may have recorded a fault: the faults are the same, and without a fault the
states agree (60_exceptions.md R255). -/
def State.AlikeAfter (s t : State) : Prop := s.faults = t.faults ∧ (s.faults = [] → s.Alike t)

/-- The padded key depends on the consumed key words alone (43_key_schedule.md R172). -/
theorem padWords_congr {n : Nat} {k k' : Vector Word 8} (h : ∀ i : Fin 8, i.val < n / 4 → k.get i = k'.get i) :
    padWords n k = padWords n k' := by
  have words : (fun i : Fin 8 => if i.val < n / 4 then k.get i else 0#32) =
      fun i : Fin 8 => if i.val < n / 4 then k'.get i else 0#32 := by
    funext i
    split
    · exact h i ‹_›
    · rfl
  simp only [padWords, words]

namespace State

variable {s t : State}

theorem Alike.after (h : s.Alike t) : s.AlikeAfter t := ⟨h.faults, fun _ => h⟩

/-! ### Operations that may record a fault -/

/-- Where a fault is raised, equal fault records are all that is left. -/
theorem AlikeAfter.raise (h : s.faults = t.faults) (f : Fault) : (s.raise f).AlikeAfter (t.raise f) :=
  ⟨raise_congr f h, fun hn => absurd hn (raise_ne_nil s f)⟩

theorem AlikeAfter.raiseAll {fs : List Fault} (h : s.faults = t.faults) (ha : fs = [] → s.Alike t) :
    (s.raiseAll fs).AlikeAfter (t.raiseAll fs) := by
  refine ⟨raiseAll_congr fs h, fun hn => ?_⟩
  obtain rfl := raiseAll_eq_nil hn
  exact ha rfl

theorem Alike.withHost (h : s.Alike t) (rest : List HostLine) : { s with host := rest }.Alike { t with host := rest } :=
  { h with host := rfl }

theorem Alike.setVar (h : s.Alike t) (x : Nat) (v : Word) : (s.setVar x v).Alike (t.setVar x v) :=
  { h with vars := congrArg (HostVars.set x v) h.vars }

theorem Alike.complete (h : s.Alike t) (e : ErrCode) : (s.complete e).Alike (t.complete e) :=
  { h with status := by rw [complete_status, complete_status, h.status] }

theorem Alike.readFaults (h : s.Alike t) (r : Reg) : s.readFaults r = t.readFaults r := by
  cases r <;> simp [State.readFaults, h.status, h.dinW]

/-- A register that is read without a fault has an observed value. -/
theorem Alike.readWord (h : s.Alike t) {r : Reg} (hr : s.readFaults r = []) : s.readWord r = t.readWord r := by
  cases r with
  | status => exact congrArg Status.word h.status
  | keyLen => exact h.keyLen
  | din i =>
    have hw : s.dinW.get i = true := by simpa [State.readFaults] using hr
    exact h.din i hw
  | dout i =>
    have hv : s.status.doutValid = true := by simpa [State.readFaults] using hr
    exact congrArg (Quad.get · i) (h.dout hv)
  | _ => rfl

theorem Alike.busRead (h : s.Alike t) (off : BitVec 8) (n x : Nat) : (s.busRead off n x).AlikeAfter (t.busRead off n x) := by
  rcases access_cases off n with hf | ⟨rfl, r, rfl⟩
  · rw [busRead_dropped _ x hf, busRead_dropped _ x hf]
    exact .raiseAll h.faults fun _ => h.setVar x 0#32
  · rw [busRead_offset, busRead_offset, ← h.readFaults r]
    exact .raiseAll h.faults fun hr => h.readWord hr ▸ h.setVar x (s.readWord r)

theorem AlikeAfter.busyWrite (h : s.faults = t.faults) (r : Reg) (v : Word) :
    (s.busyWrite r v).AlikeAfter (t.busyWrite r v) :=
  .raise (s := { s with status := { s.status with protoErr := true } })
    (t := { t with status := { t.status with protoErr := true } }) h _

theorem Alike.storeKey (h : s.Alike t) (i : Fin 8) (v : Word) :
    { s with key := s.key.set i.val v i.isLt, keyW := s.keyW.set i.val true i.isLt }.Alike
      { t with key := t.key.set i.val v i.isLt, keyW := t.keyW.set i.val true i.isLt } := by
  refine { h with keyW := congrArg (Vector.set · i.val true i.isLt) h.keyW, key := fun j hj => ?_ }
  by_cases hji : j = i
  · subst hji
    exact (Vector.get_set_self' s.key j v).trans (Vector.get_set_self' t.key j v).symm
  · have hw : s.keyW.get j = true := (Vector.get_set_of_ne' s.keyW true hji).symm.trans hj
    exact (Vector.get_set_of_ne' s.key v hji).trans ((h.key j hw).trans (Vector.get_set_of_ne' t.key v hji).symm)

theorem Alike.storeDin (h : s.Alike t) (i : Fin 4) (v : Word) :
    { s with din := s.din.set i v, dinW := s.dinW.set i.val true i.isLt }.Alike
      { t with din := t.din.set i v, dinW := t.dinW.set i.val true i.isLt } := by
  refine { h with dinW := congrArg (Vector.set · i.val true i.isLt) h.dinW, din := fun j hj => ?_ }
  by_cases hji : j = i
  · subst hji
    exact (Quad.get_set_self s.din j v).trans (Quad.get_set_self t.din j v).symm
  · have hw : s.dinW.get j = true := (Vector.get_set_of_ne' s.dinW true hji).symm.trans hj
    exact (Quad.get_set_of_ne s.din v hji).trans ((h.din j hw).trans (Quad.get_set_of_ne t.din v hji).symm)

theorem Alike.writeReg (h : s.Alike t) (r : Reg) (v : Word) : (s.writeReg r v).AlikeAfter (t.writeReg r v) := by
  have store {u w : State} (r : Reg) (hu : u.Alike w) :
      (if s.status.busy then s.busyWrite r v else u).AlikeAfter (if t.status.busy then t.busyWrite r v else w) := by
    rw [← h.status]
    split
    · exact .busyWrite h.faults r v
    · exact hu.after
  cases r with
  | keyLen => exact store .keyLen { h with keyLen := rfl }
  | key i => exact store (.key i) (h.storeKey i v)
  | din i => exact store (.din i) (h.storeDin i v)
  | _ => exact h.after

/-! ### Acceptance of a command -/

theorem unwrittenKeys_congr (h : s.keyW = t.keyW) (n : Nat) : s.unwrittenKeys n = t.unwrittenKeys n := by
  simp only [unwrittenKeys, h]

theorem unwrittenDin_congr (h : s.dinW = t.dinW) : s.unwrittenDin = t.unwrittenDin := by
  simp only [unwrittenDin, h]

/-- Where SET_KEY raises nothing, the key words it consumes are written (60_exceptions.md R258). -/
theorem keyW_of_no_unwritten {n : Nat} (h : s.unwrittenKeys n = []) (i : Fin 8) (hi : i.val < n / 4) :
    s.keyW.get i = true := by
  by_contra hw
  have := (mem_unwrittenKeys s n (.unwrittenInput (.key i))).2 ⟨i, hi, by simpa using hw, rfl⟩
  rw [h] at this
  cases this

theorem dinW_of_no_unwritten (h : s.unwrittenDin = []) (i : Fin 4) : s.dinW.get i = true := by
  by_contra hw
  have := (mem_unwrittenDin s (.unwrittenInput (.din i))).2 ⟨i, by simpa using hw, rfl⟩
  rw [h] at this
  cases this

/-- The expansion starts from the consumed key words, and only its own round keys are read before it ends. -/
theorem Alike.startKey (h : s.Alike t) : s.startKey.AlikeAfter t.startKey := by
  refine ⟨?_, fun hn => ?_⟩
  · have same : s.unwrittenKeys s.keyLen.toNat = t.unwrittenKeys t.keyLen.toNat := by
      rw [h.keyLen, unwrittenKeys_congr h.keyW]
    exact (congrArg (fun fs => (s.raiseAll fs).faults) same).trans (raiseAll_congr _ h.faults)
  · have hnil := raiseAll_eq_nil hn
    have hnil' : t.unwrittenKeys t.keyLen.toNat = [] := by rwa [← h.keyLen, ← unwrittenKeys_congr h.keyW]
    have pad : padWords s.keyLen.toNat s.key = padWords t.keyLen.toNat t.key := by
      rw [← h.keyLen]
      exact padWords_congr fun i hi => h.key i (keyW_of_no_unwritten hnil i hi)
    unfold State.startKey
    rw [hnil, hnil', raiseAll_nil, raiseAll_nil]
    exact { h with
      status := by simp [h.status]
      phase := rfl
      rk := fun hk => by cases hk
      schedule := fun _ => ⟨pad, rfl, fun k hk => absurd hk (by simp)⟩
      network := fun _ hks => absurd rfl hks }

/-- The rounds start from DIN (44_round_network.md R212, R217). -/
theorem Alike.startBlock (h : s.Alike t) (op : BitVec 4) (r : Fin 33) {p : Phase} (hp : p ≠ .ksStep ∧ p ≠ .ksSbox) :
    (s.startBlock op r p).AlikeAfter (t.startBlock op r p) := by
  refine ⟨?_, fun hn => ?_⟩
  · exact (congrArg (fun fs => (s.raiseAll fs).faults) (unwrittenDin_congr h.dinW)).trans (raiseAll_congr _ h.faults)
  · have hnil := raiseAll_eq_nil hn
    have hnil' : t.unwrittenDin = [] := by rwa [← unwrittenDin_congr h.dinW]
    have block : s.din = t.din := Quad.ext_get fun i => h.din i (dinW_of_no_unwritten hnil i)
    unfold State.startBlock
    rw [hnil, hnil', raiseAll_nil, raiseAll_nil]
    exact { h with
      status := by simp [h.status]
      phase := rfl
      schedule := fun hks => absurd hks (not_or.2 hp)
      network := fun _ _ _ => ⟨rfl, rfl, block⟩ }

theorem Alike.acceptSetKey (h : s.Alike t) : (acceptSetKey s).AlikeAfter (acceptSetKey t) := by
  cases hv : validate s.keyLen with
  | some e =>
    rw [acceptSetKey_of_illegal hv, acceptSetKey_of_illegal (h.keyLen ▸ hv)]
    exact (h.complete e).after
  | none =>
    rw [acceptSetKey_of_legal hv, acceptSetKey_of_legal (h.keyLen ▸ hv)]
    exact h.startKey

theorem Alike.acceptBlock (h : s.Alike t) (op : BitVec 4) (r : Fin 33) {p : Phase} (hp : p ≠ .ksStep ∧ p ≠ .ksSbox) :
    (acceptBlock op r p s).AlikeAfter (acceptBlock op r p t) := by
  cases hk : s.status.keyValid with
  | true =>
    rw [acceptBlock_of_schedule hk, acceptBlock_of_schedule (h.status ▸ hk)]
    exact h.startBlock op r hp
  | false =>
    rw [acceptBlock_of_no_schedule hk, acceptBlock_of_no_schedule (h.status ▸ hk)]
    exact .raise (h.complete _).faults _

end State

/-! ### The host's lines -/

/-- Both outcomes are next states, and these agree as long as no fault is recorded. -/
def OutcomesAlike (o p : Host.Outcome State Fault Refusal) : Prop :=
  ∃ s t : State, o = .next s ∧ p = .next t ∧ s.AlikeAfter t

theorem State.AlikeAfter.outcomes {s t : State} (h : s.AlikeAfter t) : OutcomesAlike (.next s) (.next t) :=
  ⟨s, t, rfl, rfl, h⟩

theorem writeCmd_alike {s t : State} (h : s.Alike t) (c : Word) : OutcomesAlike (s.writeCmd c) (t.writeCmd c) := by
  cases hb : s.status.busy with
  | true =>
    rw [writeCmd_busy hb, writeCmd_busy (h.status ▸ hb)]
    exact (State.AlikeAfter.busyWrite h.faults _ _).outcomes
  | false =>
    rw [writeCmd_idle hb, writeCmd_idle (h.status ▸ hb)]
    refine State.AlikeAfter.outcomes ?_
    split
    · exact h.acceptSetKey
    · exact h.acceptBlock _ _ (by decide)
    · exact h.acceptBlock _ _ (by decide)
    · exact (h.complete _).after
    · exact .raise (h.complete _).faults _

theorem busWrite_alike {s t : State} (h : s.Alike t) (off : BitVec 8) (n : Nat) (v : Word) :
    OutcomesAlike (s.busWrite off n v) (t.busWrite off n v) := by
  rcases access_cases off n with hf | ⟨rfl, r, rfl⟩
  · rw [busWrite_dropped _ v hf, busWrite_dropped _ v hf]
    exact (State.AlikeAfter.raiseAll h.faults fun _ => h).outcomes
  · rw [busWrite_offset, busWrite_offset]
    cases r with
    | cmd => exact writeCmd_alike h v
    | _ => exact (h.writeReg _ v).outcomes

theorem hostOp_alike {s t : State} (h : s.Alike t) (l : HostLine) (rest : List HostLine) :
    OutcomesAlike (s.hostOp l rest) (t.hostOp l rest) := by
  have hr := h.withHost rest
  obtain ⟨g, op⟩ := l
  cases op with
  | write off n v => exact busWrite_alike hr off n v
  | read off n x => exact (hr.busRead off n x).outcomes
  | wait x =>
    have busy : t.status.busy = s.status.busy := congrArg Status.busy h.status.symm
    have word : t.status.word = s.status.word := congrArg Status.word h.status.symm
    simp only [State.hostOp, busy, word]
    split
    · exact h.after.outcomes
    · exact (hr.setVar x s.status.word).after.outcomes

theorem hostStep_alike {s t : State} (h : s.Alike t) : OutcomesAlike s.hostStep t.hostStep := by
  unfold State.hostStep
  rw [← h.host]
  cases s.host with
  | nil => exact h.after.outcomes
  | cons l rest => exact hostOp_alike h l rest

theorem State.Alike.mover {s t : State} (h : s.Alike t) : s.mover = t.mover := by
  unfold State.mover
  rw [h.phase, h.host, h.status]

/-! ### Operations of the core -/

/-- The phases of ENCRYPT and DECRYPT (44_round_network.md R219). -/
abbrev Phase.InRounds (p : Phase) : Prop := p ≠ .idle ∧ p ≠ .ksStep ∧ p ≠ .ksSbox

namespace State

variable {s t : State}

/-- While rounds run there is a schedule (44_round_network.md R221). -/
theorem Inv.keyValid_of_rounds (h : s.Inv) (hp : s.phase.InRounds) : s.status.keyValid = true := by
  have phase := h.phase
  unfold PhaseInv at phase
  split at phase
  case h_1 e => exact absurd e hp.1
  case h_2 e => exact absurd e hp.2.1
  case h_3 e => exact absurd e hp.2.2
  all_goals exact phase.1

/-- While rounds run, RND, ACT and the working state are the same. -/
theorem Alike.rounds (h : s.Alike t) (hs : s.phase.InRounds) : s.rnd = t.rnd ∧ s.act = t.act ∧ s.active = t.active := by
  obtain ⟨h1, h2, h3⟩ := hs
  exact h.network h1 h2 h3

theorem Alike.spendGap (h : s.Alike t) : s.spendGap.Alike t.spendGap := by
  unfold State.spendGap
  rw [← h.host]
  split
  · exact h
  · exact h.withHost _

/-- The banks and ACT matter only while rounds run, and then only the working state does. -/
theorem Alike.withBanks (h : s.Alike t) {a b a' b' : Quad} {x x' : Bank}
    (hq : s.phase.InRounds → x = x' ∧
      { s with bankA := a, bankB := b, act := x }.active = { t with bankA := a', bankB := b', act := x' }.active) :
    { s with bankA := a, bankB := b, act := x }.Alike { t with bankA := a', bankB := b', act := x' } :=
  { h with network := fun h1 h2 h3 => ⟨(h.network h1 h2 h3).1, hq ⟨h1, h2, h3⟩⟩ }

theorem setBank_eq (s : State) (x : Bank) (q : Quad) :
    s.setBank x q = { s with bankA := (s.setBank x q).bankA, bankB := (s.setBank x q).bankB } := by
  cases x <;> rfl

theorem inPlace_eq (s : State) (g : Quad → Quad) :
    s.inPlace g = { s with bankA := (s.inPlace g).bankA, bankB := (s.inPlace g).bankB } :=
  s.setBank_eq _ _

theorem across_eq (s : State) (g : Quad → Quad) :
    s.across g = { s with bankA := (s.across g).bankA, bankB := (s.across g).bankB, act := s.act.other } :=
  congrArg (fun u : State => { u with act := s.act.other }) (s.setBank_eq _ _)

theorem Alike.inPlace (h : s.Alike t) (g : Quad → Quad) : (s.inPlace g).Alike (t.inPlace g) := by
  rw [inPlace_eq s, inPlace_eq t]
  refine h.withBanks fun hs => ?_
  obtain ⟨-, ha, hq⟩ := h.rounds hs
  refine ⟨ha, ?_⟩
  rw [← inPlace_eq s, ← inPlace_eq t, inPlace_active, inPlace_active, hq]

theorem Alike.across (h : s.Alike t) (g : Quad → Quad) : (s.across g).Alike (t.across g) := by
  rw [across_eq s, across_eq t]
  refine h.withBanks fun hs => ?_
  obtain ⟨-, ha, hq⟩ := h.rounds hs
  refine ⟨by rw [ha], ?_⟩
  rw [← across_eq s, ← across_eq t, across_active, across_active, hq]

/-- From one phase of the rounds to another. -/
theorem Alike.toRounds (h : s.Alike t) (hs : s.phase.InRounds) {r r' : Fin 33} (hr : r = r') {p : Phase}
    (hp : p ≠ .ksStep ∧ p ≠ .ksSbox) :
    { s with rnd := r, phase := p }.Alike { t with rnd := r', phase := p } :=
  { h with
    phase := rfl
    schedule := fun hks => absurd hks (not_or.2 hp)
    network := fun _ _ _ => ⟨hr, (h.rounds hs).2⟩ }

theorem Alike.toPhase (h : s.Alike t) (hs : s.phase.InRounds) {p : Phase} (hp : p ≠ .ksStep ∧ p ≠ .ksSbox) :
    { s with phase := p }.Alike { t with phase := p } :=
  h.toRounds hs (h.rounds hs).1 hp

theorem Alike.finishBlock (h : s.Alike t) (hs : s.phase.InRounds) : s.finishBlock.Alike t.finishBlock :=
  { h with
    status := by simp [h.status]
    phase := rfl
    dout := fun _ => (h.rounds hs).2.2
    schedule := fun hks => by simp at hks
    network := fun hi => absurd rfl hi }

theorem Alike.finishKey (h : s.Alike t) (hrk : s.rk = t.rk) : s.finishKey.Alike t.finishKey :=
  { h with
    status := by simp [h.status]
    phase := rfl
    rk := fun _ => hrk
    schedule := fun hks => by simp at hks
    network := fun hi => absurd rfl hi }

/-- With the group's round key stored, the round keys up to that group are the same. -/
theorem Alike.storeRoundKey_get (h : s.Alike t) (hp : s.phase = .ksSbox) {k : Fin 33} (hk : k.val ≤ s.group.val) :
    s.storeRoundKey.rk.get k = t.storeRoundKey.rk.get k := by
  obtain ⟨hpw, hs, hrk⟩ := h.schedule (Or.inr hp)
  have hg : s.group = t.group := by rw [State.group, State.group, hs]
  by_cases hks : k = s.group
  · subst hks
    calc s.storeRoundKey.rk.get s.group
        = sbox (groupBox s.group) s.pwGroup := s.storeRoundKey_get_self
      _ = sbox (groupBox t.group) t.pwGroup := by rw [hg, pwGroup, pwGroup, hpw]
      _ = t.storeRoundKey.rk.get t.group := t.storeRoundKey_get_self.symm
      _ = t.storeRoundKey.rk.get s.group := by rw [hg]
  · rw [s.storeRoundKey_get_of_ne hks, t.storeRoundKey_get_of_ne (hg ▸ hks)]
    refine hrk k ?_
    rw [if_pos hp]
    omega

/-- The window and STEP move on together, and no round key is stored (43_key_schedule.md R179). -/
theorem Alike.ksStep (h : s.Alike t) (hp : s.phase = .ksStep) (hk : s.status.keyValid = false)
    (hs : s.stepIdx.val < 132) (ht : t.stepIdx.val < 132) :
    { s with
      pw := shiftWindow s.pw (nextPrekey s.pw s.stepIdx.val), stepIdx := ⟨s.stepIdx.val + 1, by omega⟩,
      phase := if (s.stepIdx.val + 1) % 4 = 0 then .ksSbox else .ksStep }.Alike
    { t with
      pw := shiftWindow t.pw (nextPrekey t.pw t.stepIdx.val), stepIdx := ⟨t.stepIdx.val + 1, by omega⟩,
      phase := if (t.stepIdx.val + 1) % 4 = 0 then .ksSbox else .ksStep } := by
  obtain ⟨hpw, hst, hrk⟩ := h.schedule (Or.inl hp)
  simp only [hp, reduceCtorEq, if_false] at hrk
  refine { h with
    phase := by simp only [hst]
    rk := fun hv => absurd hv (by simp [hk])
    schedule := fun _ => ⟨by simp only [hpw, hst], by simp only [hst], fun k hlt => hrk k ?_⟩
    network := fun _ h2 h3 => ?_ }
  · simp only [State.group_val] at hlt
    by_cases hm : (s.stepIdx.val + 1) % 4 = 0
    · simp only [if_pos hm, if_true] at hlt
      omega
    · simp only [if_neg hm, reduceCtorEq, if_false] at hlt
      omega
  · by_cases hm : (s.stepIdx.val + 1) % 4 = 0
    · exact absurd (if_pos hm) h3
    · exact absurd (if_neg hm) h2

theorem Alike.storeRoundKey (h : s.Alike t) (hp : s.phase = .ksSbox) (hk : s.status.keyValid = false) :
    s.storeRoundKey.Alike t.storeRoundKey := by
  obtain ⟨hpw, hst, -⟩ := h.schedule (Or.inr hp)
  have hp' : s.storeRoundKey.phase = .ksSbox := hp
  refine { h with
    rk := fun hv => absurd hv (by simp [State.storeRoundKey, hk])
    schedule := fun _ => ⟨hpw, hst, fun k hlt => h.storeRoundKey_get hp ?_⟩
    network := fun _ _ hn => absurd hp hn }
  rw [if_pos hp'] at hlt
  exact Nat.le_of_lt hlt

/-- Back to KS_STEP, the stored round keys are those up to the group (43_key_schedule.md R182). -/
theorem Alike.ksSbox (h : s.Alike t) (hp : s.phase = .ksSbox) (hk : s.status.keyValid = false)
    (h4 : 4 ≤ s.stepIdx.val) :
    { s.storeRoundKey with phase := .ksStep }.Alike { t.storeRoundKey with phase := .ksStep } := by
  obtain ⟨hpw, hst, -⟩ := h.schedule (Or.inr hp)
  refine { h.storeRoundKey hp hk with
    phase := rfl
    schedule := fun _ => ⟨hpw, hst, fun k hlt => h.storeRoundKey_get hp ?_⟩
    network := fun _ hn => absurd rfl hn }
  have hlt' : k.val < s.stepIdx.val / 4 := by simpa [State.storeRoundKey] using hlt
  rw [s.group_val]
  omega

/-- With the last group all 33 round keys are stored. -/
theorem Alike.ksLast (h : s.Alike t) (hp : s.phase = .ksSbox) (hk : s.status.keyValid = false)
    (hg : s.group = lastKey) :
    s.storeRoundKey.finishKey.Alike t.storeRoundKey.finishKey := by
  refine (h.storeRoundKey hp hk).finishKey (Vector.ext fun i hi => ?_)
  have := h.storeRoundKey_get hp (k := ⟨i, hi⟩) (by rw [hg]; exact Nat.le_of_lt_succ hi)
  simpa only [Vector.get_eq_getElem] using this

end State

/-! ### The core's micro-step -/

/-- Both cores take the micro-step of their common phase, and agree after it. -/
theorem coreEffect_alike {s t : State} (hs : s.Inv) (ht : t.Inv) (h : s.Alike t) (hne : s.phase ≠ .idle) :
    ∃ u w, CoreEffect s u ∧ CoreEffect t w ∧ u.Alike w := by
  have hsp := hs.phase
  have htp := ht.phase
  have same {p : Phase} (hp : s.phase = p) : t.phase = p := h.phase ▸ hp
  have rounds {p : Phase} (hp : s.phase = p) (hn : p.InRounds) :
      s.phase.InRounds ∧ s.rk = t.rk ∧ s.rnd = t.rnd := by
    subst hp
    exact ⟨hn, h.rk (hs.keyValid_of_rounds hn), (h.rounds hn).1⟩
  cases hp : s.phase with
  | idle => exact absurd hp hne
  | ksStep =>
    simp only [State.PhaseInv, hp] at hsp
    simp only [State.PhaseInv, same hp] at htp
    obtain ⟨hk, -, hi⟩ := hsp
    obtain ⟨-, -, hi'⟩ := htp
    have hlt := Nat.lt_succ_of_le hi
    have hlt' := Nat.lt_succ_of_le hi'
    exact ⟨_, _, .ksStep hp hlt, .ksStep (same hp) hlt', h.ksStep hp hk hlt hlt'⟩
  | ksSbox =>
    simp only [State.PhaseInv, hp] at hsp
    obtain ⟨hk, -, -, h4⟩ := hsp
    have hg : s.group = t.group := by rw [State.group, State.group, (h.schedule (Or.inr hp)).2.1]
    by_cases hl : s.group = lastKey
    · exact ⟨_, _, .ksLast hp hl, .ksLast (same hp) (hg ▸ hl), h.ksLast hp hk hl⟩
    · exact ⟨_, _, .ksSbox hp hl, .ksSbox (same hp) (hg ▸ hl), h.ksSbox hp hk h4⟩
  | encMix =>
    obtain ⟨hn, hrk, hr⟩ := rounds hp (by decide)
    refine ⟨_, _, .encMix hp, .encMix (same hp), ?_⟩
    rw [← hrk, ← hr]
    exact (h.inPlace _).toPhase (by simpa using hn) (by decide)
  | encSbox =>
    obtain ⟨hn, -, hr⟩ := rounds hp (by decide)
    refine ⟨_, _, .encSbox hp, .encSbox (same hp), ?_⟩
    rw [← hr]
    exact (h.across _).toPhase (by simpa using hn) (by split <;> decide)
  | encLt =>
    obtain ⟨hn, -, hr⟩ := rounds hp (by decide)
    refine ⟨_, _, .encLt hp, .encLt (same hp), ?_⟩
    rw [← hr]
    exact (h.inPlace lt).toRounds (by simpa using hn) rfl (by decide)
  | encFinal =>
    obtain ⟨hn, hrk, -⟩ := rounds hp (by decide)
    refine ⟨_, _, .encFinal hp, .encFinal (same hp), ?_⟩
    rw [← hrk]
    exact (h.inPlace _).finishBlock (by simpa using hn)
  | decMix32 =>
    obtain ⟨hn, hrk, -⟩ := rounds hp (by decide)
    refine ⟨_, _, .decMix32 hp, .decMix32 (same hp), ?_⟩
    rw [← hrk]
    exact (h.inPlace _).toPhase (by simpa using hn) (by decide)
  | decIlt =>
    obtain ⟨hn, -, -⟩ := rounds hp (by decide)
    exact ⟨_, _, .decIlt hp, .decIlt (same hp), (h.inPlace ilt).toPhase (by simpa using hn) (by decide)⟩
  | decIsbox =>
    obtain ⟨hn, -, hr⟩ := rounds hp (by decide)
    refine ⟨_, _, .decIsbox hp, .decIsbox (same hp), ?_⟩
    rw [← hr]
    exact (h.across _).toPhase (by simpa using hn) (by decide)
  | decMix =>
    obtain ⟨hn, hrk, hr⟩ := rounds hp (by decide)
    by_cases h0 : s.rnd.val = 0
    · refine ⟨_, _, .decLast hp h0, .decLast (same hp) (hr ▸ h0), ?_⟩
      rw [← hrk, ← hr]
      exact (h.inPlace _).finishBlock (by simpa using hn)
    · refine ⟨_, _, .decMix hp h0, .decMix (same hp) (hr ▸ h0), ?_⟩
      rw [← hrk, ← hr]
      exact (h.inPlace _).toRounds (by simpa using hn) rfl (by decide)

/-! ### The step -/

/-- From states that agree and hold no fault, both steps answer a next state. -/
theorem step_alike {s t : State} (hs : s.Inv) (ht : t.Inv) (h : s.Alike t) (hf : s.faults = []) :
    OutcomesAlike (step s) (step t) := by
  have hf' : t.faults = [] := h.faults ▸ hf
  cases hm : s.mover with
  | host =>
    rw [step_of_host hf hm, step_of_host hf' (h.mover ▸ hm)]
    exact hostStep_alike h
  | core =>
    rw [step_of_core hf hm, step_of_core hf' (h.mover ▸ hm)]
    obtain ⟨u, w, hu, hw, huw⟩ := coreEffect_alike hs ht h (mover_core hm)
    rw [hu.coreStep_eq, hw.coreStep_eq]
    exact huw.spendGap.after.outcomes
  | neither =>
    rw [step_of_neither hf hm, step_of_neither hf' (h.mover ▸ hm)]
    exact h.after.outcomes

/-- Settles O59: a recorded fault is in both records; without one both steps answer states that agree. -/
theorem unspecifiedStateUnobservable : Obligations.UnspecifiedStateUnobservable := by
  unfold Obligations.UnspecifiedStateUnobservable
  intro s t hs ht h
  cases hf : s.faults with
  | cons f fs =>
    rw [step_of_faults hf, step_of_faults (h.faults ▸ hf)]
    exact ⟨fun s' hn => (by cases hn), fun g hg => hg⟩
  | nil =>
    obtain ⟨u, w, hu, hw, hafter⟩ := step_alike hs ht h hf
    rw [hu, hw]
    refine ⟨fun s' hn => ?_, fun g hg => (by cases hg)⟩
    cases hn
    exact ⟨w, rfl, hafter⟩

end Sys2Proof.Machine
end

section
/-! PROOF. The bus as it carries commands and accesses, and which agent's step runs (20_memory.md): commands as words and as
bytes, the access that is not performed, the host's line and the core's micro-step. -/

namespace Sys2Proof

/-! ### Commands as words and as bytes -/

/-- An instruction's command word decodes to it; an internal operation has none (30_encoding.md R72, R76). -/
theorem decodeWord_of_encode {i : Instr} {w : Word} (h : encode i = some w) : decodeWord w = .instr i := by
  cases i
  case nop => exact Laws.RoundTrip.nop w h
  case setKey => exact Laws.RoundTrip.setKey w h
  case encrypt => exact Laws.RoundTrip.encrypt w h
  case decrypt => exact Laws.RoundTrip.decrypt w h
  all_goals cases h

/-- `decodeWord` and `encode` are inverse to each other. -/
theorem decodeWord_eq_instr_iff (i : Instr) (w : Word) : decodeWord w = .instr i ↔ encode i = some w := by
  refine ⟨fun h => ?_, decodeWord_of_encode⟩
  obtain ⟨op, ho, rfl⟩ := eq_commandWord_of_decodeWord h
  rw [encode, ho, Option.map_some]

/-- Four bytes are those of one word, the word they pack into (00_scope.md R11). -/
theorem bytesLe_eq_iff {bs : List Byte} (h : bs.length = 4) (w : Word) : bytesLe w = bs ↔ w = le32 bs 0 := by
  constructor
  · rintro rfl
    exact (le32_bytesLe w).symm
  · rintro rfl
    rw [bytesLe_le32_eq_slice (by omega), Nat.mul_zero, List.drop_zero, List.take_of_length_le h.le]

/-- Four bytes encode an instruction when the word they pack into does. -/
theorem encodeBytes_eq_some_iff (i : Instr) {bs : List Byte} (h : bs.length = 4) :
    encodeBytes i = some bs ↔ encode i = some (le32 bs 0) := by
  simp only [encodeBytes, Option.map_eq_some_iff, bytesLe_eq_iff h, exists_eq_right]

theorem decode_of_length_four {bs : List Byte} (h : bs.length = 4) : decode bs = decodeWord (le32 bs 0) :=
  if_neg (by omega)

/-- Settles O5: on words by the four command words, on bytes by packing them into a word. -/
theorem decodeEncodeAgree : Obligations.DecodeEncodeAgree := by
  unfold Obligations.DecodeEncodeAgree
  refine ⟨decodeWord_eq_instr_iff, fun i bs h => ?_⟩
  rw [decode_of_length_four h, decodeWord_eq_instr_iff, encodeBytes_eq_some_iff i h]

namespace Machine

/-! ### Accesses that are not performed -/

/-- R52: an access to an undecoded offset is BUS_UNMAPPED, and BUS_WIDTH as well where R53 names it. -/
theorem mem_accessFaults_of_undecoded {off : BitVec 8} (hu : (0x14 ≤ off.toNat ∧ off.toNat ≤ 0x1F) ∨ 0x60 ≤ off.toNat)
    (n : Nat) (f : Fault) :
    f ∈ accessFaults off n ↔ f = .busUnmapped off ∨ ((n ≠ 4 ∨ off.toNat % 4 ≠ 0) ∧ f = .busWidth off n) := by
  rw [mem_accessFaults, and_iff_right hu]

/-- R53: an access that is not an aligned word is BUS_WIDTH, and BUS_UNMAPPED as well where R52 names it. -/
theorem mem_accessFaults_of_illSized {off : BitVec 8} {n : Nat} (hw : n ≠ 4 ∨ off.toNat % 4 ≠ 0) (f : Fault) :
    f ∈ accessFaults off n ↔ f = .busWidth off n ∨
      (((0x14 ≤ off.toNat ∧ off.toNat ≤ 0x1F) ∨ 0x60 ≤ off.toNat) ∧ f = .busUnmapped off) := by
  rw [mem_accessFaults, and_iff_right hw, or_comm]

/-- An access with a fault of its offset or width is not performed: a write only records the faults, a read records them and
gives zero. -/
theorem access_dropped (s : State) {off : BitVec 8} {n : Nat} (x : Nat) (v : Word) (h : accessFaults off n ≠ []) :
    (∃ t, s.busWrite off n v = .next t ∧ t = { s with faults := t.faults } ∧
      ∀ f, f ∈ t.faults ↔ f ∈ s.faults ∨ f ∈ accessFaults off n) ∧
      HostVars.get x (s.busRead off n x).vars = some 0#32 ∧
      (∀ y, y ≠ x → HostVars.get y (s.busRead off n x).vars = HostVars.get y s.vars) ∧
      (∀ f, f ∈ (s.busRead off n x).faults ↔ f ∈ s.faults ∨ f ∈ accessFaults off n) ∧
      s.busRead off n x = { s with vars := (s.busRead off n x).vars, faults := (s.busRead off n x).faults } := by
  rw [busRead_dropped s x h, State.raiseAll_vars, State.setVar_vars]
  exact ⟨⟨_, busWrite_dropped s v h, State.raiseAll_eq _ _, State.mem_raiseAll _ _⟩, HostVars.get_set_self _ _ _,
    fun y hy => HostVars.get_set_of_ne _ _ hy, State.mem_raiseAll _ _, State.raiseAll_eq _ _⟩

/-- Settles O33: R52 names a fault of the access, so it is not performed. -/
theorem undecodedAccess : Obligations.UndecodedAccess := by
  unfold Obligations.UndecodedAccess
  intro s off n x v hu
  have added := mem_accessFaults_of_undecoded hu n
  have dropped := access_dropped s x v (List.ne_nil_of_mem ((added _).2 (Or.inl rfl)))
  simpa only [added] using dropped

/-- Settles O34: R53 names a fault of the access, so it is not performed. -/
theorem illSizedAccess : Obligations.IllSizedAccess := by
  unfold Obligations.IllSizedAccess
  intro s off n x v hw
  have added := mem_accessFaults_of_illSized hw
  have dropped := access_dropped s x v (List.ne_nil_of_mem ((added _).2 (Or.inl rfl)))
  simpa only [added] using dropped

/-! ### The host's line -/

/-- The host moves at its line when the core is IDLE or the gap is spent, but for a `wait` that polls BUSY = 1
(30_encoding.md R78). -/
theorem mover_of_line {s : State} {g : Nat} {op : HostOp} {rest : List HostLine} (hs : s.host = ⟨g, op⟩ :: rest)
    (hg : s.phase = .idle ∨ g = 0) (hop : ∀ x, op = .wait x → s.status.busy = false) : s.mover = .host := by
  unfold State.mover
  rw [hs]
  obtain hp | rfl := hg
  · rw [hp]
  · cases op with
    | wait x =>
      rw [hop x rfl]
      cases s.phase <;> rfl
    | _ => cases s.phase <;> rfl

/-- Where the host moves at its line, the step is what the line does. -/
theorem step_of_line {s : State} {g : Nat} {op : HostOp} {rest : List HostLine} (hf : s.faults = [])
    (hs : s.host = ⟨g, op⟩ :: rest) (hg : s.phase = .idle ∨ g = 0) (hop : ∀ x, op = .wait x → s.status.busy = false) :
    step s = s.hostOp ⟨g, op⟩ rest := by
  rw [step_of_host hf (mover_of_line hs hg hop), State.hostStep, hs]

/-- The write of a command's word to CMD runs the command (44_round_network.md R220). -/
theorem busWrite_cmd_of_instr {c : Word} {i : Instr} (s : State) (h : decodeWord c = .instr i) :
    s.busWrite (Reg.offset .cmd) 4 c = exec i s := by
  rw [busWrite_offset, State.writeCmd, h]

/-- The write of a reserved word to CMD is the illegal command (30_encoding.md R74). -/
theorem busWrite_cmd_of_reject {c : Word} {r : Reject} (s : State) (h : decodeWord c = .reject r) :
    s.busWrite (Reg.offset .cmd) 4 c = .next (s.illegalCommand c) := by
  rw [busWrite_offset, State.writeCmd, h]

/-- Settles O39: the step is the line's, and a command word to CMD is one of the writes. -/
theorem stepRunsDecodedCommand : Obligations.StepRunsDecodedCommand := by
  unfold Obligations.StepRunsDecodedCommand
  intro s g op rest hf hs hg
  have write : ∀ off n v, op = .write off n v → step s = { s with host := rest }.busWrite off n v := by
    rintro off n v rfl
    exact step_of_line hf hs hg nofun
  refine ⟨fun c hop => ⟨fun i hi => ?_, fun r hr => ?_⟩, write, ?_, ?_⟩
  · exact (write _ _ _ hop).trans (busWrite_cmd_of_instr _ hi)
  · exact (write _ _ _ hop).trans (busWrite_cmd_of_reject _ hr)
  · rintro off n x rfl
    exact step_of_line hf hs hg nofun
  · rintro x rfl hb
    refine ⟨{ s with host := rest }.setVar x s.status.word, ?_, rfl, HostVars.get_set_self _ _ _,
      fun y hy => HostVars.get_set_of_ne _ _ hy⟩
    rw [step_of_line hf hs hg fun _ _ => hb, State.hostOp, hb]
    rfl

/-! ### The core's micro-step -/

/-- Only outside IDLE has the core an operation (44_round_network.md R219). -/
theorem phase_ne_idle_of_microOp {s : State} {i : Instr} (h : s.microOp = some i) : s.phase ≠ .idle := by
  intro hp
  rw [State.microOp, hp] at h
  cases h

/-- Outside IDLE the core moves while the next line's gap is not spent. -/
theorem mover_of_gap {s : State} {g : Nat} {op : HostOp} {rest : List HostLine} (hp : s.phase ≠ .idle)
    (hs : s.host = ⟨g + 1, op⟩ :: rest) : s.mover = .core := by
  unfold State.mover
  rw [hs]
  cases h : s.phase
  case idle => exact absurd h hp
  all_goals rfl

/-- Outside IDLE the core moves while the next line is a `wait` and BUSY = 1 (30_encoding.md R78). -/
theorem mover_of_busy_wait {s : State} {x : Nat} {rest : List HostLine} (hp : s.phase ≠ .idle)
    (hs : s.host = ⟨0, .wait x⟩ :: rest) (hb : s.status.busy = true) : s.mover = .core := by
  unfold State.mover
  rw [hs, hb]
  cases h : s.phase
  case idle => exact absurd h hp
  all_goals rfl

/-- The micro-step of an operation that completes ends with the controller's sequencing. -/
theorem coreStep_of_exec_next {s t : State} {i : Instr} (hi : s.microOp = some i) (h : exec i s = .next t) :
    s.coreStep = .next t.sequence.spendGap := by
  simp only [State.coreStep, hi, h]

/-- The micro-step of an operation that is refused is refused. -/
theorem coreStep_of_exec_refused {s : State} {i : Instr} {r : Refusal} (hi : s.microOp = some i)
    (h : exec i s = .refused r) : s.coreStep = .refused r := by
  simp only [State.coreStep, hi, h]

/-- Settles O40: in each of the three cases the core moves, and its step is `exec` with the sequencing. -/
theorem stepRunsMicroOperation : Obligations.StepRunsMicroOperation := by
  unfold Obligations.StepRunsMicroOperation
  intro s i hf hi hline
  have hp := phase_ne_idle_of_microOp hi
  have core : s.mover = .core := by
    obtain hs | ⟨g, op, rest, hs⟩ | ⟨x, rest, hs, hb⟩ := hline
    · exact mover_of_no_line hp hs
    · exact mover_of_gap hp hs
    · exact mover_of_busy_wait hp hs hb
  rw [step_of_core hf core]
  exact ⟨fun _ => coreStep_of_exec_next hi, fun _ => coreStep_of_exec_refused hi⟩

end Machine

end Sys2Proof
end

section
/-! PROOF. Command words by their number: the two fields, decoding of every word, what has no word, and the writes of a
reserved and of a placed word to CMD (30_encoding.md R70-R77; 44_round_network.md R220). -/

namespace Sys2Proof

/-! ### The fields of a command word -/

theorem rsvdField_toNat (c : Word) : (rsvdField c).toNat = c.toNat / 16 := by
  rw [rsvdField, BitVec.extractLsb'_toNat, Nat.shiftRight_eq_div_pow]
  omega

theorem opField_toNat (c : Word) : (opField c).toNat = c.toNat % 16 := by
  rw [opField, BitVec.extractLsb'_toNat, Nat.shiftRight_zero]

theorem commandWord_toNat (op : BitVec 4) : (commandWord op).toNat = op.toNat := by
  rw [commandWord, Machine.toNat_append_eq, BitVec.toNat_ofNat, Nat.zero_mod, Nat.mul_zero, Nat.zero_add]

theorem rsvdField_eq_zero_iff (c : Word) : rsvdField c = 0#28 ↔ c.toNat < 16 := by
  rw [← BitVec.toNat_inj, rsvdField_toNat, BitVec.toNat_ofNat]
  omega

/-- Below 16 the number of a word is its opcode, so a word of another number has another opcode (30_encoding.md R71). -/
theorem opField_ne_of_toNat_ne {c : Word} {op : BitVec 4} (hc : c.toNat < 16) (h : c.toNat ≠ op.toNat) :
    opField c ≠ op := by
  rintro rfl
  exact h (by rw [opField_toNat, Nat.mod_eq_of_lt hc])

/-! ### Decoding by the number of the word -/

/-- The word of an instruction, given by its number. -/
theorem decodeWord_of_toNat {i : Instr} {n : Nat} (he : encode i = some (BitVec.ofNat 32 n)) {c : Word}
    (hc : c.toNat = n) : decodeWord c = .instr i := by
  subst hc
  exact decodeWord_of_encode (by rw [he, BitVec.ofNat_toNat, BitVec.setWidth_eq])

theorem decodeWord_of_rsvd {c : Word} (h : 16 ≤ c.toNat) : decodeWord c = .reject (.rsvdNonzero c) :=
  if_pos fun hr => absurd ((rsvdField_eq_zero_iff c).1 hr) (by omega)

theorem decodeWord_of_reservedOp {c : Word} (h4 : 4 ≤ c.toNat) (h16 : c.toNat < 16) :
    decodeWord c = .reject (.reservedOp c) := by
  have other {op : BitVec 4} (hop : op.toNat < 4) : opField c ≠ op := opField_ne_of_toNat_ne h16 (by omega)
  rw [decodeWord, if_neg (not_not.2 ((rsvdField_eq_zero_iff c).2 h16)), if_neg (other (by decide)),
    if_neg (other (by decide)), if_neg (other (by decide)), if_neg (other (by decide))]

/-- A word of number 4 or above is rejected, under one name or the other (30_encoding.md R74). -/
theorem decodeWord_rejects {c : Word} (h : 4 ≤ c.toNat) : ∃ r, decodeWord c = .reject r := by
  by_cases h16 : c.toNat < 16
  · exact ⟨_, decodeWord_of_reservedOp h h16⟩
  · exact ⟨_, decodeWord_of_rsvd (not_lt.1 h16)⟩

/-- Settles O4: by the range that the number of the word is in. -/
theorem decodeIsTotalOnWords : Obligations.DecodeIsTotalOnWords := by
  unfold Obligations.DecodeIsTotalOnWords
  exact fun c => ⟨decodeWord_of_rsvd, decodeWord_of_reservedOp, decodeWord_of_toNat (i := .nop) rfl,
    decodeWord_of_toNat (i := .setKey) rfl, decodeWord_of_toNat (i := .encrypt) rfl,
    decodeWord_of_toNat (i := .decrypt) rfl⟩

/-- Settles O3: each of the four words is the one its command encodes to; a reserved opcode is the number of its word. -/
theorem commandWordsDecode : Obligations.CommandWordsDecode := by
  unfold Obligations.CommandWordsDecode
  refine ⟨decodeWord_of_encode (i := .nop) rfl, decodeWord_of_encode (i := .setKey) rfl,
    decodeWord_of_encode (i := .encrypt) rfl, decodeWord_of_encode (i := .decrypt) rfl, rfl, rfl, rfl, rfl,
    fun op hop => decodeWord_of_reservedOp ?_ ?_⟩ <;> rw [commandWord_toNat]
  · exact hop
  · exact op.isLt

/-! ### Instructions without a word -/

/-- Only the four commands have an opcode (30_encoding.md R76). -/
theorem opcode_eq_none {i : Instr} (hn : i ≠ .nop) (hk : i ≠ .setKey) (he : i ≠ .encrypt) (hd : i ≠ .decrypt) :
    opcode i = none := by
  cases i with
  | nop => exact absurd rfl hn
  | setKey => exact absurd rfl hk
  | encrypt => exact absurd rfl he
  | decrypt => exact absurd rfl hd
  | _ => rfl

/-- Settles O6: without an opcode there is no word, and a word that decodes to an instruction is one it encodes to. -/
theorem internalOperationsHaveNoWord : Obligations.InternalOperationsHaveNoWord := by
  unfold Obligations.InternalOperationsHaveNoWord
  intro i hn hk he hd
  have noWord : encode i = none := by rw [encode, opcode_eq_none hn hk he hd, Option.map_none]
  refine ⟨noWord, fun w hw => ?_⟩
  rw [decodeWord_eq_instr_iff, noWord] at hw
  cases hw

/-! ### Table words -/

theorem decode_bytesLe (w : Word) : decode (bytesLe w) = decodeWord w := by
  rw [decode_of_length_four rfl, le32_bytesLe]

/-- A table word gives an instruction where the decoder does (30_encoding.md R70). -/
theorem decodeTableWord_eq_some_iff (nbits w : Nat) (i : Instr) :
    decodeTableWord nbits w = some i ↔ decodeWord (tableWord nbits w) = .instr i := by
  rw [decodeTableWord, decode_bytesLe]
  cases decodeWord (tableWord nbits w) <;> simp

/-- A table word of 32 bits is the whole word. -/
theorem tableWord_32 (w : Nat) : tableWord 32 w = BitVec.ofNat 32 w := by
  apply BitVec.eq_of_toNat_eq
  rw [tableWord, BitVec.toNat_ofNat, BitVec.toNat_ofNat, Nat.mod_mod]

namespace Machine

/-! ### A reserved word written to CMD -/

/-- With BUSY = 0 completing changes ERR alone. -/
theorem State.complete_idle {s : State} (hb : s.status.busy = false) (e : ErrCode) :
    s.complete e = { s with status := { s.status with err := e } } := by
  rw [State.complete, ← hb]

/-- With BUSY = 0 a reserved word completes with ILLEGAL_COMMAND and records that fault (30_encoding.md R74). -/
theorem State.illegalCommand_idle {s : State} (hb : s.status.busy = false) (c : Word) :
    s.illegalCommand c =
      { s with status := { s.status with err := .illegalCommand } }.raise (.illegalCommand c) := by
  rw [State.illegalCommand, State.issue, hb, State.complete_idle hb]
  rfl

/-- Settles O29: with BUSY = 0 by the rejection of the word; with BUSY = 1 every word is the busy write. -/
theorem reservedWordsComplete : Obligations.ReservedWordsComplete := by
  unfold Obligations.ReservedWordsComplete
  refine fun s c hc => ⟨fun hb => ?_, fun hb => (busWrite_offset s .cmd c).trans (writeCmd_busy hb c)⟩
  obtain ⟨r, hr⟩ := decodeWord_rejects hc
  have write := busWrite_cmd_of_reject s hr
  rw [State.illegalCommand_idle hb] at write
  exact ⟨_, write, State.mem_raise _ _, State.raise_eq _ _⟩

/-! ### A word placed for the host's next write -/

/-- The placed line has no gap, so the next step is its write, and the host's other lines are again as they were (log 2). -/
theorem step_withFetchWord {s : State} (hf : s.faults = []) (nbits w : Nat) :
    step (s.withFetchWord nbits w) = s.busWrite (Reg.offset .cmd) 4 (tableWord nbits w) :=
  step_of_line (s := s.withFetchWord nbits w) hf rfl (Or.inr rfl) nofun

/-- Settles O44: the step is the placed line's write, and the write of a command's word runs the command. -/
theorem placedWordIsWritten : Obligations.PlacedWordIsWritten := by
  unfold Obligations.PlacedWordIsWritten
  intro s w hf
  rw [step_withFetchWord hf]
  refine ⟨by rw [tableWord_32]; rfl, fun i hi => ?_⟩
  exact busWrite_cmd_of_instr s ((decodeTableWord_eq_some_iff 32 w i).1 hi)

end Machine

end Sys2Proof
end

section
/-! PROOF. The word primitives (40_word_primitives.md R100-R103): a rotation by the places its bits go to, the byte reversal
as unpacking and packing, and what their instructions answer. -/

namespace Sys2Proof.Machine

/-! ### Rotations -/

/-- R100: rotating left takes bit `b` to place `(b + n) mod 32`. -/
theorem getLsbD_rotl32 (x : Word) {n b : Nat} (hn : n < 32) (hb : b < 32) :
    (rotl32 x n).getLsbD ((b + n) % 32) = x.getLsbD b := by
  rw [rotl32, BitVec.getLsbD_or, BitVec.getLsbD_shiftLeft, BitVec.getLsbD_ushiftRight]
  by_cases stays : b + n < 32
  · have shiftedIn : x.getLsbD (32 - n + (b + n)) = false := BitVec.getLsbD_of_ge _ _ (by omega)
    simp [Nat.mod_eq_of_lt stays, shiftedIn, stays]
  · have wrap : (b + n) % 32 = b + n - 32 := by omega
    have place : 32 - n + (b + n - 32) = b := by omega
    have low : b + n - 32 < n := by omega
    simp [wrap, place, low]

/-- R100: the kept bits are a multiple of `2^n`, and the bits that wrap round make a number below `2^n`. -/
theorem rotl32_toNat (x : Word) {n : Nat} (hn : n < 32) :
    (rotl32 x n).toNat = x.toNat * 2 ^ n % 2 ^ 32 + x.toNat / 2 ^ (32 - n) := by
  have parts : 2 ^ 32 = 2 ^ (32 - n) * 2 ^ n := by rw [← Nat.pow_add, Nat.sub_add_cancel hn.le]
  have kept : x.toNat * 2 ^ n % 2 ^ 32 = (x.toNat % 2 ^ (32 - n)) <<< n := by
    rw [parts, Nat.mul_mod_mul_right, Nat.shiftLeft_eq]
  have wrapped : x.toNat / 2 ^ (32 - n) < 2 ^ n := Nat.div_lt_of_lt_mul (parts ▸ x.isLt)
  rw [rotl32, BitVec.toNat_or, BitVec.toNat_shiftLeft, BitVec.toNat_ushiftRight, Nat.shiftLeft_eq,
    Nat.shiftRight_eq_div_pow, kept, Nat.shiftLeft_add_eq_or_of_lt wrapped]

theorem rotr32_eq_rotl32 (x : Word) {n : Nat} (hn : n < 32) : rotr32 x n = rotl32 x (32 - n) := by
  rw [rotr32, rotl32, Nat.sub_sub_self hn.le, BitVec.or_comm]

/-- Rotating on by `32 - n` takes every bit back to its place. -/
theorem rotl32_sub_rotl32 (x : Word) {n : Nat} (h0 : 0 < n) (hn : n < 32) : rotl32 (rotl32 x n) (32 - n) = x := by
  apply BitVec.eq_of_getLsbD_eq
  intro b hb
  have back : ((b + n) % 32 + (32 - n)) % 32 = b := by omega
  calc (rotl32 (rotl32 x n) (32 - n)).getLsbD b
      = (rotl32 (rotl32 x n) (32 - n)).getLsbD (((b + n) % 32 + (32 - n)) % 32) := by rw [back]
    _ = (rotl32 x n).getLsbD ((b + n) % 32) := getLsbD_rotl32 _ (by omega) (by omega)
    _ = x.getLsbD b := getLsbD_rotl32 x hn hb

theorem rotr32_rotl32 (x : Word) {n : Nat} (h0 : 0 < n) (hn : n < 32) : rotr32 (rotl32 x n) n = x := by
  rw [rotr32_eq_rotl32 _ hn, rotl32_sub_rotl32 x h0 hn]

theorem rotl32_rotr32 (x : Word) {n : Nat} (h0 : 0 < n) (hn : n < 32) : rotl32 (rotr32 x n) n = x := by
  have back := rotl32_sub_rotl32 x (n := 32 - n) (by omega) (by omega)
  rwa [Nat.sub_sub_self hn.le, ← rotr32_eq_rotl32 x hn] at back

theorem rotateAmountOk_iff (n : Nat) : rotateAmountOk n = true ↔ 0 < n ∧ n < 32 := by
  rw [rotateAmountOk, Bool.and_eq_true, decide_eq_true_iff, decide_eq_true_iff]

/-- A rotation by an amount in 1..31 completes with the word on the primitives' output. -/
theorem exec_rotate_of_legal (s : State) (x : Word) {n : Nat} (h : 0 < n ∧ n < 32) :
    exec (.rotl32 x n) s = .next (s.output (rotl32 x n)) ∧ exec (.rotr32 x n) s = .next (s.output (rotr32 x n)) :=
  ⟨if_pos ((rotateAmountOk_iff n).2 h), if_pos ((rotateAmountOk_iff n).2 h)⟩

/-- R100, R101: a rotation by any other amount is refused. -/
theorem exec_rotate_of_illegal (s : State) (x : Word) {n : Nat} (h : ¬(0 < n ∧ n < 32)) :
    exec (.rotl32 x n) s = .refused (.rotateAmount n) ∧ exec (.rotr32 x n) s = .refused (.rotateAmount n) :=
  ⟨if_neg (mt (rotateAmountOk_iff n).1 h), if_neg (mt (rotateAmountOk_iff n).1 h)⟩

/-- Settles O7: by the places of the bits, by the two disjoint parts of the number, and by the check of the amount. -/
theorem rotationsMoveBits : Obligations.RotationsMoveBits := by
  unfold Obligations.RotationsMoveBits
  refine ⟨fun x n h0 hn => ?_, fun x n s h => exec_rotate_of_illegal s x (by omega)⟩
  exact ⟨fun b hb => getLsbD_rotl32 x hn hb, rotl32_toNat x hn, rotr32_eq_rotl32 x hn, rotr32_rotl32 x h0 hn,
    rotl32_rotr32 x h0 hn⟩

/-! ### The logical shift -/

/-- Settles O8: the number and the bits of the library's shift. -/
theorem shiftLeftDropsTopBits : Obligations.ShiftLeftDropsTopBits := by
  unfold Obligations.ShiftLeftDropsTopBits
  intro x n
  constructor
  · rw [shl32, BitVec.toNat_shiftLeft, Nat.shiftLeft_eq]
  · intro b hb
    rw [shl32, BitVec.getLsbD_shiftLeft, decide_eq_true hb, Bool.not_true, Bool.and_false, Bool.false_and]

/-! ### The byte reversal -/

/-- The byte reversal packs the word's bytes in the other order (00_scope.md R11). -/
theorem byteswap32_eq_le32 (x : Word) : byteswap32 x = le32 (bytesLe x).reverse 0 := rfl

theorem bytesLe_byteswap32 (x : Word) : bytesLe (byteswap32 x) = (bytesLe x).reverse :=
  (bytesLe_eq_iff rfl _).2 (byteswap32_eq_le32 x)

theorem byteswap32_byteswap32 (x : Word) : byteswap32 (byteswap32 x) = x := by
  rw [byteswap32_eq_le32, bytesLe_byteswap32, List.reverse_reverse, le32_bytesLe]

/-- Settles O9: unpacking undoes packing, and a list reversed twice is the list. -/
theorem byteswapReversesBytes : Obligations.ByteswapReversesBytes := by
  unfold Obligations.ByteswapReversesBytes
  exact fun x => ⟨bytesLe_byteswap32 x, byteswap32_byteswap32 x⟩

/-- The mask of byte 0 has the bits below 8. -/
theorem getLsbD_maskByte0 (i : Nat) : (0xFF#32).getLsbD i = decide (i < 8) := by
  rw [show 0xFF#32 = (BitVec.allOnes 8).setWidth 32 from rfl, BitVec.getLsbD_setWidth, BitVec.getLsbD_allOnes,
    ← Bool.decide_and]
  exact decide_eq_decide.2 (by omega)

/-- The mask of byte 1 has the bits from 8 to 15. -/
theorem getLsbD_maskByte1 (i : Nat) : (0xFF00#32).getLsbD i = decide (8 ≤ i ∧ i < 16) := by
  rw [show 0xFF00#32 = 0xFF#32 <<< 8 from rfl, BitVec.getLsbD_shiftLeft, getLsbD_maskByte0, ← decide_not,
    ← Bool.decide_and, ← Bool.decide_and]
  exact decide_eq_decide.2 (by omega)

/-- R103 with masks and shifts: in each byte of the result exactly one of the four terms has bits. -/
theorem byteswap32_eq_shifts (x : Word) :
    byteswap32 x = (x &&& 0xFF#32) <<< 24 ||| (x &&& 0xFF00#32) <<< 8 ||| (x >>> 8 &&& 0xFF00#32) ||| x >>> 24 := by
  apply BitVec.eq_of_getLsbD_eq
  intro i hi
  have beyond (h : 8 ≤ i) : x.getLsbD (24 + i) = false := BitVec.getLsbD_of_ge _ _ (by omega)
  simp only [byteswap32, BitVec.getLsbD_append, BitVec.getLsbD_extractLsb', BitVec.getLsbD_or, BitVec.getLsbD_and,
    BitVec.getLsbD_shiftLeft, BitVec.getLsbD_ushiftRight, getLsbD_maskByte0, getLsbD_maskByte1]
  obtain byte0 | byte1 | byte2 | byte3 : i < 8 ∨ (8 ≤ i ∧ i < 16) ∨ (16 ≤ i ∧ i < 24) ∨ 24 ≤ i := by omega
  all_goals grind

/-! ### The instructions -/

/-- Settles O10: the rotations on their domain, the others always; each with the library's operation. -/
theorem wordPrimitivesComplete : Obligations.WordPrimitivesComplete := by
  unfold Obligations.WordPrimitivesComplete
  refine fun s x => ⟨fun n h0 hn => ?_, fun n => rfl, ?_⟩
  · rw [← rotl32_eq x hn, ← rotr32_eq x hn]
    exact exec_rotate_of_legal s x ⟨h0, hn⟩
  · rw [← byteswap32_eq_shifts x]
    rfl

end Sys2Proof.Machine
end

section
/-! PROOF. The substitution layer (41_substitution.md, 44_round_network.md R204): a word formula is fixed by its values on
constant words, so sixteen cases decide whether it is the table's; the tables that undo each other; the operations on the
banks. -/

namespace Sys2Proof.Machine

/-! ### Word formulas -/

@[simp] theorem getElem_ones {j : Nat} (hj : j < 32) : (0xFFFFFFFF#32)[j] = true := BitVec.getElem_allOnes j hj

/-- The quadruple whose 32 lanes all hold the bits `p`, `q`, `r`, `s`. -/
def allLanes (p q r s : Bool) : Quad := ⟨.fill 32 p, .fill 32 q, .fill 32 r, .fill 32 s⟩

/-- The four word formulas of a rule as one function of the quadruple. -/
def ofFormulas (e g h k : Word → Word → Word → Word → Word) (q : Quad) : Quad :=
  ⟨e q.w0 q.w1 q.w2 q.w3, g q.w0 q.w1 q.w2 q.w3, h q.w0 q.w1 q.w2 q.w3, k q.w0 q.w1 q.w2 q.w3⟩

/-- Bit `j` of a word formula depends on bit `j` of each operand only: it is what the formula gives on constant words. -/
def Lanewise (e : Word → Word → Word → Word → Word) : Prop :=
  ∀ (w x y z : Word) (j : Nat) (_ : j < 32),
    (e w x y z)[j] = (e (.fill 32 w[j]) (.fill 32 x[j]) (.fill 32 y[j]) (.fill 32 z[j]))[0]

/-- On the sixteen quadruples of equal lanes the formulas give the table's entry. -/
abbrev MatchOnAllLanes (t : List Nat) (e g h k : Word → Word → Word → Word → Word) : Prop :=
  ∀ p q r s : Bool, t[nib (allLanes p q r s) 0]? = some (nib (ofFormulas e g h k (allLanes p q r s)) 0)

theorem nib_allLanes (q : Quad) {j : Nat} (hj : j < 32) : nib (allLanes q.w0[j] q.w1[j] q.w2[j] q.w3[j]) 0 = nib q j := by
  simp [nib, allLanes, hj]

section

variable {t : List Nat} {e g h k : Word → Word → Word → Word → Word}

theorem nib_ofFormulas (he : Lanewise e) (hg : Lanewise g) (hh : Lanewise h) (hk : Lanewise k) (q : Quad) {j : Nat}
    (hj : j < 32) : nib (ofFormulas e g h k q) j = nib (ofFormulas e g h k (allLanes q.w0[j] q.w1[j] q.w2[j] q.w3[j])) 0 := by
  simp only [nib, ofFormulas, allLanes, BitVec.getLsbD_eq_getElem hj, BitVec.getLsbD_eq_getElem (show 0 < 32 by decide),
    he _ _ _ _ j hj, hg _ _ _ _ j hj, hh _ _ _ _ j hj, hk _ _ _ _ j hj]

/-- A function that gives the table's entry in every lane is the slice of the table. -/
theorem slice_eq_of_entries {f : Quad → Quad} (hf : ∀ (q : Quad) (j : Nat), j < 32 → t[nib q j]? = some (nib (f q) j))
    (q : Quad) : slice t q = f q := by
  apply Quad.ext_nib
  intro j hj
  have entry : t.getD (nib q j) 0 = nib (f q) j := by rw [List.getD_eq_getElem?_getD, hf q j hj, Option.getD_some]
  rw [nib_slice t q hj (entry ▸ nib_lt _ _), entry]

/-- R120: lanewise formulas that match the table on constant words are the table's S-box on every quadruple. -/
theorem sboxIs_of_matchOnAllLanes (hl : Lanewise e ∧ Lanewise g ∧ Lanewise h ∧ Lanewise k)
    (ht : MatchOnAllLanes t e g h k) : SboxIs (slice t) t e g h k := by
  obtain ⟨he, hg, hh, hk⟩ := hl
  have entry (q : Quad) (j : Nat) (hj : j < 32) : t[nib q j]? = some (nib (ofFormulas e g h k q) j) := by
    rw [nib_ofFormulas he hg hh hk q hj, ← nib_allLanes q hj]
    exact ht _ _ _ _
  have agree := slice_eq_of_entries entry
  exact ⟨fun q j hj => agree q ▸ entry q j hj, fun a b c d => agree ⟨a, b, c, d⟩⟩

end

/-- Settles O11: for each S-box the formulas are lanewise, and have the table's entries on the sixteen quadruples of equal
lanes. -/
theorem forwardSboxesFollowTables : Obligations.ForwardSboxesFollowTables := by
  unfold Obligations.ForwardSboxesFollowTables
  refine ⟨?_, ?_, ?_, ?_, ?_, ?_, ?_, ?_⟩ <;> exact sboxIs_of_matchOnAllLanes (by simp [Lanewise]) (by decide)

/-- Settles O12: as for the forward S-boxes, from the formulas' values on constant words. -/
theorem inverseSboxesFollowTables : Obligations.InverseSboxesFollowTables := by
  unfold Obligations.InverseSboxesFollowTables
  refine ⟨?_, ?_, ?_, ?_, ?_, ?_, ?_, ?_⟩ <;> exact sboxIs_of_matchOnAllLanes (by simp [Lanewise]) (by decide)

/-! ### Tables that undo each other -/

/-- `T_Sn` (R122-R129). -/
def fwdTable (n : Fin 8) : List Nat :=
  #v[tableS0, tableS1, tableS2, tableS3, tableS4, tableS5, tableS6, tableS7].get n

/-- `T_In` (R130-R137). -/
def invTable (n : Fin 8) : List Nat :=
  #v[tableI0, tableI1, tableI2, tableI3, tableI4, tableI5, tableI6, tableI7].get n

theorem sbox_eq_slice (n : Fin 8) : sbox n = slice (fwdTable n) := by fin_cases n <;> rfl

theorem invSbox_eq_slice (n : Fin 8) : invSbox n = slice (invTable n) := by fin_cases n <;> rfl

theorem fwdTable_lt : ∀ n, ∀ x < 16, (fwdTable n).getD x 0 < 16 := by decide

theorem invTable_lt : ∀ n, ∀ x < 16, (invTable n).getD x 0 < 16 := by decide

theorem invTable_fwdTable : ∀ n, ∀ x < 16, (invTable n).getD ((fwdTable n).getD x 0) 0 = x := by decide

theorem fwdTable_invTable : ∀ n, ∀ x < 16, (fwdTable n).getD ((invTable n).getD x 0) 0 = x := by decide

/-- Settles O14: the tables undo each other on every nibble, hence in every lane. -/
theorem sboxInverseLaw : Obligations.SboxInverseLaw := by
  unfold Obligations.SboxInverseLaw
  intro n q
  rw [sbox_eq_slice, invSbox_eq_slice]
  exact ⟨slice_slice (fwdTable_lt n) (invTable_fwdTable n) q, slice_slice (invTable_lt n) (fwdTable_invTable n) q⟩

/-! ### The operations on the banks -/

/-- R204: the banks and ACT after an operation that completes as `State.across`. -/
theorem crossesBanks_of_exec {i : Instr} {f : Quad → Quad} (h : ∀ s, exec i s = .next (s.across f)) : CrossesBanks i f :=
  fun s => ⟨s.across f, h s, s.across_act f, s.across_active f, s.across_bank_read f, s.across_eq f⟩

theorem crossesBanks_fwdInstr (n : Fin 8) : CrossesBanks (fwdInstr n) (sbox n) := crossesBanks_of_exec (exec_fwdInstr n)

theorem crossesBanks_invInstr (n : Fin 8) : CrossesBanks (invInstr n) (invSbox n) := crossesBanks_of_exec (exec_invInstr n)

/-- Settles O13: the sixteen operations are those of the eight numbers, forward and inverse. -/
theorem sboxOperationsCrossBanks : Obligations.SboxOperationsCrossBanks := by
  unfold Obligations.SboxOperationsCrossBanks
  have fwd := crossesBanks_fwdInstr
  have inv := crossesBanks_invInstr
  exact ⟨fwd 0, fwd 1, fwd 2, fwd 3, fwd 4, fwd 5, fwd 6, fwd 7, inv 0, inv 1, inv 2, inv 3, inv 4, inv 5, inv 6, inv 7⟩

end Sys2Proof.Machine
end

section
/-! PROOF. The linear diffusion mixer (42_linear_transform.md): ILT undoes LT assignment by assignment, both keep XOR because
rotations, shifts and XOR do, and LT and ILT as operations in place on bank ACT. -/

namespace Sys2Proof.Machine

/-! ### LT and ILT undo each other -/

/-- An assignment `x ^ y ^ z` is undone by the same one again, once `y` and `z` are restored. -/
theorem xor_xor_undo (x y z : Word) : x ^^^ y ^^^ z ^^^ y ^^^ z = x := by
  rw [BitVec.xor_assoc x y z, BitVec.xor_assoc _ y z, BitVec.xor_assoc, BitVec.xor_self, BitVec.xor_zero]

theorem ilt_lt (q : Quad) : ilt (lt q) = q := by
  simp (disch := decide) only [lt, ilt, rotr32_rotl32, xor_xor_undo]

theorem lt_ilt (q : Quad) : lt (ilt q) = q := by
  simp (disch := decide) only [lt, ilt, rotl32_rotr32, xor_xor_undo]

/-- Settles O16: each assignment of R151 undoes one of R150, a rotation or an XOR. -/
theorem linearTransformInverse : Obligations.LinearTransformInverse := by
  unfold Obligations.LinearTransformInverse
  exact fun q => ⟨ilt_lt q, lt_ilt q⟩

/-! ### LT and ILT keep XOR -/

/-- A rotation moves bits (R100), so it keeps the XOR of two words. -/
theorem rotl32_xor (x y : Word) {n : Nat} (hn : n < 32) : rotl32 (x ^^^ y) n = rotl32 x n ^^^ rotl32 y n := by
  simp only [rotl32_eq _ hn]
  ext i hi
  simp only [BitVec.getElem_rotateLeft, BitVec.getElem_xor]
  split <;> rfl

theorem rotr32_xor (x y : Word) {n : Nat} (h0 : 0 < n) (hn : n < 32) : rotr32 (x ^^^ y) n = rotr32 x n ^^^ rotr32 y n := by
  simp only [rotr32_eq_rotl32 _ hn, rotl32_xor _ _ (Nat.sub_lt (by decide : 0 < 32) h0)]

/-- A word that keeps XOR as a function of the quadruple: what an assignment of R150 or R151 leaves in its variable. -/
def XorLinear (f : Quad → Word) : Prop := ∀ p q : Quad, f (p.xor q) = f p ^^^ f q

namespace XorLinear

variable {f g : Quad → Word}

theorem w0 : XorLinear Quad.w0 := fun _ _ => rfl
theorem w1 : XorLinear Quad.w1 := fun _ _ => rfl
theorem w2 : XorLinear Quad.w2 := fun _ _ => rfl
theorem w3 : XorLinear Quad.w3 := fun _ _ => rfl

theorem xor (hf : XorLinear f) (hg : XorLinear g) : XorLinear fun q => f q ^^^ g q := by
  intro p q
  simp only [hf p q, hg p q]
  ac_rfl

theorem rotl (hf : XorLinear f) {n : Nat} (hn : n < 32 := by decide) : XorLinear fun q => rotl32 (f q) n := fun p q =>
  (congrArg (rotl32 · n) (hf p q)).trans (rotl32_xor _ _ hn)

theorem rotr (hf : XorLinear f) {n : Nat} (h0 : 0 < n := by decide) (hn : n < 32 := by decide) :
    XorLinear fun q => rotr32 (f q) n := fun p q =>
  (congrArg (rotr32 · n) (hf p q)).trans (rotr32_xor _ _ h0 hn)

theorem shl (hf : XorLinear f) (n : Nat) : XorLinear fun q => shl32 (f q) n := fun p q =>
  (congrArg (shl32 · n) (hf p q)).trans (BitVec.shiftLeft_xor_distrib _ _ n)

end XorLinear

/-- A map of quadruples keeps XOR when each of its four words does. -/
theorem map_xor_of_words {f : Quad → Quad} (h0 : XorLinear fun q => (f q).w0) (h1 : XorLinear fun q => (f q).w1)
    (h2 : XorLinear fun q => (f q).w2) (h3 : XorLinear fun q => (f q).w3) (p q : Quad) :
    f (p.xor q) = (f p).xor (f q) :=
  Quad.ext_get fun
    | 0 => h0 p q
    | 1 => h1 p q
    | 2 => h2 p q
    | 3 => h3 p q

open XorLinear in
/-- The assignments of R150 in their order, `b` and `d` with their rotations. -/
theorem lt_xor (p q : Quad) : lt (p.xor q) = (lt p).xor (lt q) :=
  have a := w0.rotl (n := 13)
  have c := w2.rotl (n := 3)
  have b := ((w1.xor a).xor c).rotl (n := 1)
  have d := ((w3.xor c).xor (a.shl 3)).rotl (n := 7)
  have a' := ((a.xor b).xor d).rotl (n := 5)
  have c' := ((c.xor d).xor (b.shl 7)).rotl (n := 22)
  map_xor_of_words a' b c' d p q

open XorLinear in
/-- The assignments of R151 in their order. -/
theorem ilt_xor (p q : Quad) : ilt (p.xor q) = (ilt p).xor (ilt q) :=
  have c := ((w2.rotr (n := 22)).xor w3).xor (w1.shl 7)
  have a := ((w0.rotr (n := 5)).xor w1).xor w3
  have d := ((w3.rotr (n := 7)).xor c).xor (a.shl 3)
  have b := ((w1.rotr (n := 1)).xor a).xor c
  map_xor_of_words (a.rotr (n := 13)) b (c.rotr (n := 3)) d p q

theorem Quad.xor_self (q : Quad) : q.xor q = Quad.zero := by
  simp only [Quad.xor, BitVec.xor_self]
  rfl

/-- Zero is `0 ^ 0`, and its image the XOR of a quadruple with itself. -/
theorem map_zero_of_map_xor {f : Quad → Quad} (hf : ∀ p q, f (p.xor q) = (f p).xor (f q)) : f Quad.zero = Quad.zero :=
  (hf Quad.zero Quad.zero).trans (Quad.xor_self _)

/-- Settles O17: rotations, shifts and XOR keep XOR, hence so does each assignment of R150 and R151; zero is `0 ^ 0`. -/
theorem linearTransformIsLinear : Obligations.LinearTransformIsLinear := by
  unfold Obligations.LinearTransformIsLinear
  exact ⟨fun p q => ⟨lt_xor p q, ilt_xor p q⟩, map_zero_of_map_xor lt_xor, map_zero_of_map_xor ilt_xor⟩

/-! ### LT and ILT on the banks -/

/-- An in-place operation writes the bank that ACT names (44_round_network.md R204). -/
theorem State.inPlace_bank_act (s : State) (f : Quad → Quad) : (s.inPlace f).bank s.act = f (s.bank s.act) :=
  s.setBank_bank _ _

/-- An in-place operation leaves the bank that ACT does not name (44_round_network.md R204). -/
theorem State.inPlace_bank_other (s : State) (f : Quad → Quad) : (s.inPlace f).bank s.act.other = s.bank s.act.other := by
  have kept := s.setBank_bank_other s.act.other (f s.active)
  rwa [Bank.other_other] at kept

/-- Settles O15: both complete as `State.inPlace`, with the library's rotations for R150's and R151's. -/
theorem linearTransformSteps : Obligations.LinearTransformSteps := by
  unfold Obligations.LinearTransformSteps
  intro s
  refine ⟨⟨_, exec_lt s, s.inPlace_eq lt, s.inPlace_bank_other lt, ?_⟩,
    ⟨_, exec_ilt s, s.inPlace_eq ilt, s.inPlace_bank_other ilt, ?_⟩⟩
  · rw [State.inPlace_bank_act]
    simp (disch := decide) only [lt, rotl32_eq]
    rfl
  · rw [State.inPlace_bank_act]
    simp (disch := decide) only [ilt, rotr32_eq]
    rfl

end Sys2Proof.Machine
end

section
/-! PROOF. The operations of the key schedule (43_key_schedule.md): the length check, the padding, the recurrence, the S-box
of a group, and the acceptance step of SET_KEY. -/

namespace Sys2Proof.Machine

/-! ### The length check -/

theorem validate_of_misaligned {n : Word} (h : n.toNat % 4 ≠ 0) : validate n = some .invalidKeyLength :=
  if_pos h

theorem validate_of_long {n : Word} (h4 : n.toNat % 4 = 0) (h : 32 < n.toNat) : validate n = some .keyTooLong :=
  (if_neg (not_not.2 h4)).trans (if_pos h)

theorem validate_of_legal {n : Word} (h4 : n.toNat % 4 = 0) (h : n.toNat ≤ 32) : validate n = none :=
  (if_neg (not_not.2 h4)).trans (if_neg h.not_gt)

/-! ### Padding -/

/-- R172: for a length of whole words the pad bit is bit 0 of the word after the key words. -/
theorem padWords_get {n : Nat} (h4 : n % 4 = 0) (hn : n ≤ 32) (key : Vector Word 8) (i : Fin 8) :
    (padWords n key).get i = if i.val < n / 4 then key.get i else if i.val = n / 4 then 1#32 else 0#32 := by
  have word : 8 * n / 32 = n / 4 := by omega
  have bit : 8 * n % 32 = 0 := by omega
  by_cases short : n < 32
  · simp only [padWords, dif_pos short, word, bit, Vector.get_eq_getElem, Vector.getElem_set, Vector.getElem_ofFn,
      lt_irrefl, if_false, BitVec.shiftLeft_zero, BitVec.zero_or, eq_comm (a := n / 4)]
    by_cases pad : i.val = n / 4
    · rw [if_pos pad, if_neg pad.not_lt, if_pos pad]
    · rw [if_neg pad, if_neg pad]
  · have pad : i.val ≠ n / 4 := by omega
    simp only [padWords, dif_neg short, Vector.get_eq_getElem, Vector.getElem_ofFn, if_neg pad]

theorem exec_ksPad_of_legal {s : State} (h : validate s.keyLen = none) :
    exec .ksPad s = .next { s.raiseAll (s.unwrittenKeys s.keyLen.toNat) with pw := padWords s.keyLen.toNat s.key } := by
  rw [exec, execKsPad, h]

theorem exec_ksPad_of_illegal {s : State} {e : ErrCode} (h : validate s.keyLen = some e) :
    exec .ksPad s = .refused (.padLength s.keyLen) := by
  rw [exec, execKsPad, h]

/-- R172, R258: the faults recorded for a key of `n` bytes. -/
theorem mem_raiseAll_unwrittenKeys (s : State) (n : Nat) (f : Fault) :
    f ∈ (s.raiseAll (s.unwrittenKeys n)).faults ↔ f ∈ s.faults ∨
      ∃ i : Fin 8, i.val < n / 4 ∧ s.keyW.get i = false ∧ f = .unwrittenInput (.key i) := by
  rw [State.mem_raiseAll, mem_unwrittenKeys]

/-- Settles O19: a legal length passes the check; the words are those of the padding, the faults those of the key. -/
theorem padKeyWords : Obligations.PadKeyWords := by
  unfold Obligations.PadKeyWords
  intro s h4 hn
  have legal := validate_of_legal h4 hn
  refine ⟨_, exec_ksPad_of_legal legal, padWords_get h4 hn s.key, mem_raiseAll_unwrittenKeys s _, ?_⟩
  rw [State.raiseAll_eq]

/-! ### The recurrence -/

theorem exec_ksStep_of_lt {s : State} (h : s.stepIdx.val < 132) :
    exec .ksStep s = .next { s with
      pw := shiftWindow s.pw (nextPrekey s.pw s.stepIdx.val), stepIdx := ⟨s.stepIdx.val + 1, by omega⟩ } :=
  dif_pos h

/-- R174, with the library's rotation. -/
theorem nextPrekey_eq (p : Vector Word 8) (i : Nat) :
    nextPrekey p i = (p[0] ^^^ p[3] ^^^ p[5] ^^^ p[7] ^^^ 0x9E3779B9#32 ^^^ BitVec.ofNat 32 i).rotateLeft 11 :=
  rotl32_eq _ (by decide)

/-- Settles O20: the window shifted by one, with the recurrence word as its last. -/
theorem recurrenceStep : Obligations.RecurrenceStep := by
  unfold Obligations.RecurrenceStep
  intro s hs
  refine ⟨_, exec_ksStep_of_lt hs, rfl, fun m hm => ?_, nextPrekey_eq _ _, rfl⟩
  have shifted := shiftWindow_get s.pw (nextPrekey s.pw s.stepIdx.val) ⟨m, by omega⟩
  rwa [dif_pos hm, Vector.get_eq_getElem] at shifted

/-- Settles O22: an illegal length fails the check, and STEP = 132 is no step of the recurrence. -/
theorem operandDomainsRefused : Obligations.OperandDomainsRefused := by
  unfold Obligations.OperandDomainsRefused
  refine fun s => ⟨fun h => ?_, fun h => dif_neg (by omega)⟩
  by_cases h4 : s.keyLen.toNat % 4 = 0
  · exact exec_ksPad_of_illegal (validate_of_long h4 (h.resolve_left (not_not.2 h4)))
  · exact exec_ksPad_of_illegal (validate_of_misaligned h4)

/-! ### The S-box of a group -/

/-- R177: the numbers of the groups' S-boxes, counted down from 3 and round. -/
theorem groupBox_cycle : ∀ k : Fin 33, ([3, 2, 1, 0, 7, 6, 5, 4] : List (Fin 8))[k.val % 8]? = some (groupBox k) := by
  decide

/-- R180: the group's S-box is that of the cycle S3, S2, S1, S0, S7, S6, S5, S4. -/
theorem sbox_groupBox_cycle (k : Fin 33) :
    [sboxS3, sboxS2, sboxS1, sboxS0, sboxS7, sboxS6, sboxS5, sboxS4][k.val % 8]? = some (sbox (groupBox k)) := by
  have numbers := congrArg (Option.map sbox) (groupBox_cycle k)
  rwa [← List.getElem?_map] at numbers

/-- R180: with `STEP = 4k + 4` the group is `k`. -/
theorem State.group_of_stepIdx {s : State} {k : Fin 33} (h : s.stepIdx.val = 4 * k.val + 4) : s.group = k :=
  Fin.ext (by rw [s.group_val]; omega)

/-- The operation of a state in PHASE = `p` (44_round_network.md R219). -/
theorem State.microOp_of_phase {s : State} {p : Phase} (hp : s.phase = p) :
    s.microOp = { s with phase := p }.microOp := by
  rw [← hp]

theorem State.microOp_ksSbox {s : State} (hp : s.phase = .ksSbox) : s.microOp = some (.ksSbox s.group) :=
  State.microOp_of_phase hp

/-- Settles O21: KS_SBOX stores one word of RK, through the S-box of the cycle; its group is the one STEP gives. -/
theorem roundKeyWrite : Obligations.RoundKeyWrite := by
  unfold Obligations.RoundKeyWrite
  refine ⟨fun s k => ⟨_, _, rfl, sbox_groupBox_cycle k, Vector.get_set_self' s.rk k _, fun j hj => ?_, rfl⟩,
    fun s k hp hs => ?_⟩
  · exact Vector.get_set_of_ne' s.rk _ hj
  · rw [State.microOp_ksSbox hp, State.group_of_stepIdx hs]

/-! ### SET_KEY -/

theorem exec_setKey_idle {s : State} (hb : s.status.busy = false) : exec .setKey s = .next (acceptSetKey s) := by
  rw [exec, execSetKey, State.issue, hb]
  rfl

/-- Settles O24: the acceptance step is the start of the expansion. -/
theorem setKeyAccepted : Obligations.SetKeyAccepted := by
  unfold Obligations.SetKeyAccepted
  intro s hb h4 hn
  rw [exec_setKey_idle hb, acceptSetKey_of_legal (validate_of_legal h4 hn)]
  refine ⟨_, rfl, padWords_get h4 hn s.key, mem_raiseAll_unwrittenKeys s _, ?_⟩
  rw [State.startKey, State.raiseAll_eq]

/-- Settles O25: each failing check completes the command with its code. -/
theorem setKeyRejectsLength : Obligations.SetKeyRejectsLength := by
  unfold Obligations.SetKeyRejectsLength
  intro s hb
  rw [exec_setKey_idle hb]
  refine ⟨fun h => ?_, fun h4 h => ?_, validate_of_legal⟩
  · rw [acceptSetKey_of_illegal (validate_of_misaligned h), State.complete_idle hb]
  · rw [acceptSetKey_of_illegal (validate_of_long h4 h), State.complete_idle hb]

end Sys2Proof.Machine
end

section
/-! PROOF. The prekey window (43_key_schedule.md R178): each word of the recurrence is the next of the prekey sequence,
each round key stored is that of its group, and no host line touches either; so every step of SET_KEY keeps the window. -/

namespace Sys2Proof.Machine

/-! ### The prekey sequence -/

/-- A word the sequence already has after `i` words of the recurrence is that of the whole sequence. -/
theorem prekeys_getD {i j : Nat} (w : Vector Word 8) (hi : i ≤ 132) (hj : j < i + 8) :
    (prekeys w 132).getD j 0#32 = (prekeys w i).getD j 0#32 := by
  have stable := prekeys_stable w i (132 - i) hj
  rwa [Nat.add_sub_cancel' hi] at stable

/-- The first eight words of the sequence are the padded key (R174). -/
theorem prekeys_getD_pad (w : Vector Word 8) (m : Fin 8) : (prekeys w 132).getD m.val 0#32 = w.get m := by
  rw [prekeys_getD w (Nat.zero_le _) (by omega), prekeys]
  simp [Vector.get_eq_getElem]

/-- R174: each later word is the recurrence of the eight before it. -/
theorem prekeys_getD_next {i : Nat} (w : Vector Word 8) (hi : i < 132) :
    (prekeys w 132).getD (i + 8) 0#32 =
      rotl32 ((prekeys w 132).getD i 0#32 ^^^ (prekeys w 132).getD (i + 3) 0#32 ^^^
        (prekeys w 132).getD (i + 5) 0#32 ^^^ (prekeys w 132).getD (i + 7) 0#32 ^^^ phi ^^^ BitVec.ofNat 32 i) ksRot := by
  have before (j : Nat) (hj : j < i + 8) := prekeys_getD w hi.le hj
  rw [before i (by omega), before (i + 3) (by omega), before (i + 5) (by omega), before (i + 7) (by omega),
    prekeys_getD w (i := i + 1) hi (by omega), prekeys, List.getD_append_right _ _ _ _ (by simp)]
  simp

/-- `p` is the window of the padded key `w` at STEP = `i` (R178). -/
def IsWindow (w p : Vector Word 8) (i : Nat) : Prop := ∀ m : Fin 8, p.get m = (prekeys w 132).getD (i + m.val) 0#32

theorem isWindow_pad (w : Vector Word 8) : IsWindow w w 0 := fun m => by
  rw [Nat.zero_add, prekeys_getD_pad]

section

variable {w p : Vector Word 8} {i : Nat} (h : IsWindow w p i)

include h

theorem IsWindow.getElem {m : Nat} (hm : m < 8) : p[m] = (prekeys w 132).getD (i + m) 0#32 := h ⟨m, hm⟩

theorem IsWindow.nextPrekey (hi : i < 132) : nextPrekey p i = (prekeys w 132).getD (i + 8) 0#32 := by
  rw [prekeys_getD_next w hi, Machine.nextPrekey, h.getElem, h.getElem, h.getElem, h.getElem, Nat.add_zero]

/-- R179: KS_STEP takes the window one word on. -/
theorem IsWindow.shift (hi : i < 132) : IsWindow w (shiftWindow p (Machine.nextPrekey p i)) (i + 1) := by
  intro m
  rw [shiftWindow_get, Nat.add_right_comm]
  split
  · exact h.getElem _
  · rw [h.nextPrekey hi, show m.val = 7 by omega]

/-- R177, R180: at `STEP = 4k + 4` the upper half of the window is what round key `k` is made of. -/
theorem IsWindow.roundKey {k : Fin 33} (hk : i = 4 * k.val + 4) :
    sbox (groupBox k) ⟨p[4], p[5], p[6], p[7]⟩ = roundKey w k := by
  have word (m : Nat) : i + (4 + m) = 8 + m + 4 * k.val := by omega
  rw [h.getElem, h.getElem, h.getElem, h.getElem, word 0, word 1, word 2, word 3, Machine.roundKey]

end

/-! ### The window of a state -/

/-- In the key schedule (44_round_network.md R219). -/
abbrev State.InSchedule (s : State) : Prop := s.phase = .ksStep ∨ s.phase = .ksSbox

/-- How many groups have their round key stored. -/
def State.groupsDone (s : State) : Nat := if s.phase = .ksSbox then s.group.val else s.stepIdx.val / 4

theorem State.groupsDone_ksStep {s : State} (h : s.phase = .ksStep) : s.groupsDone = s.stepIdx.val / 4 := by
  simp [State.groupsDone, h]

theorem State.groupsDone_ksSbox {s : State} (h : s.phase = .ksSbox) : s.groupsDone = s.stepIdx.val / 4 - 1 := by
  rw [State.groupsDone, if_pos h, s.group_val]

theorem State.window_iff (s : State) (w : Vector Word 8) :
    s.Window w ↔ IsWindow w s.pw s.stepIdx.val ∧ ∀ k : Fin 33, k.val < s.groupsDone → s.rk.get k = roundKey w k :=
  Iff.rfl

/-- The state after KS_STEP and its sequencing (R179; 44_round_network.md R219). -/
def State.afterKsStep (s : State) (h : s.stepIdx.val < 132) : State := { s with
  pw := shiftWindow s.pw (nextPrekey s.pw s.stepIdx.val)
  stepIdx := ⟨s.stepIdx.val + 1, by omega⟩
  phase := if (s.stepIdx.val + 1) % 4 = 0 then .ksSbox else .ksStep }

theorem State.coreEffect_afterKsStep {s : State} (hp : s.phase = .ksStep) (h : s.stepIdx.val < 132) :
    CoreEffect s (s.afterKsStep h) :=
  .ksStep hp h

theorem State.afterKsStep_inSchedule (s : State) (h : s.stepIdx.val < 132) : (s.afterKsStep h).InSchedule := by
  by_cases h4 : (s.stepIdx.val + 1) % 4 = 0
  · exact Or.inr (if_pos h4)
  · exact Or.inl (if_neg h4)

/-- KS_STEP stores no round key. -/
theorem State.groupsDone_afterKsStep {s : State} (hp : s.phase = .ksStep) (h : s.stepIdx.val < 132) :
    (s.afterKsStep h).groupsDone = s.groupsDone := by
  rw [State.groupsDone_ksStep hp]
  have step : (s.afterKsStep h).stepIdx.val = s.stepIdx.val + 1 := rfl
  by_cases h4 : (s.stepIdx.val + 1) % 4 = 0
  · rw [State.groupsDone_ksSbox (if_pos h4), step]
    omega
  · rw [State.groupsDone_ksStep (if_neg h4), step]
    omega

/-- The state after KS_SBOX of a group that is not the last. -/
def State.afterKsSbox (s : State) : State := { s.storeRoundKey with phase := .ksStep }

theorem State.coreEffect_afterKsSbox {s : State} (hp : s.phase = .ksSbox) (hg : s.group ≠ lastKey) :
    CoreEffect s s.afterKsSbox :=
  .ksSbox hp hg

theorem State.groupsDone_afterKsSbox {s : State} (hp : s.phase = .ksSbox) (h4 : 4 ≤ s.stepIdx.val) :
    s.afterKsSbox.groupsDone = s.groupsDone + 1 := by
  rw [State.groupsDone_ksStep rfl, State.groupsDone_ksSbox hp, show s.afterKsSbox.stepIdx = s.stepIdx from rfl]
  omega

section

variable {s : State} {w : Vector Word 8} (h : s.Window w)

include h

/-- The window is in PW, STEP, PHASE and RK alone. -/
theorem State.Window.of_eq {t : State} (hpw : t.pw = s.pw) (hs : t.stepIdx = s.stepIdx) (hp : t.phase = s.phase)
    (hrk : t.rk = s.rk) : t.Window w := by
  unfold State.Window State.group at *
  rwa [hpw, hs, hp, hrk]

theorem State.Window.afterKsStep (hp : s.phase = .ksStep) (hs : s.stepIdx.val < 132) : (s.afterKsStep hs).Window w := by
  obtain ⟨window, stored⟩ := (s.window_iff w).1 h
  refine ⟨window.shift hs, fun k hk => stored k ?_⟩
  rwa [← State.groupsDone_afterKsStep hp hs]

/-- KS_SBOX adds its group's round key to those stored. -/
theorem State.Window.storeRoundKey_get (hp : s.phase = .ksSbox) (hm : s.stepIdx.val % 4 = 0) (h4 : 4 ≤ s.stepIdx.val)
    {k : Fin 33} (hk : k.val ≤ s.group.val) : s.storeRoundKey.rk.get k = roundKey w k := by
  obtain ⟨window, stored⟩ := (s.window_iff w).1 h
  by_cases hg : k = s.group
  · subst hg
    exact s.storeRoundKey_get_self.trans (window.roundKey (by rw [s.group_val]; omega))
  · rw [s.storeRoundKey_get_of_ne hg]
    exact stored k (by rw [State.groupsDone, if_pos hp]; omega)

theorem State.Window.afterKsSbox (hp : s.phase = .ksSbox) (hm : s.stepIdx.val % 4 = 0) (h4 : 4 ≤ s.stepIdx.val) :
    s.afterKsSbox.Window w := by
  refine ⟨((s.window_iff w).1 h).1, fun k hk => h.storeRoundKey_get hp hm h4 ?_⟩
  have done : k.val < s.afterKsSbox.groupsDone := hk
  rw [State.groupsDone_afterKsSbox hp h4, State.groupsDone, if_pos hp] at done
  exact Nat.le_of_lt_succ done

/-- R181: with the last group RK is the schedule. -/
theorem State.Window.lastRoundKey (hp : s.phase = .ksSbox) (hg : s.group = lastKey) :
    s.storeRoundKey.rk = roundKeys w := by
  have hs := s.group_eq_lastKey.1 hg
  refine Vector.ext fun i hi => ?_
  have stored := h.storeRoundKey_get hp (by omega) (by omega) (k := ⟨i, hi⟩) (by rw [hg]; exact Nat.le_of_lt_succ hi)
  rwa [Vector.get_eq_getElem, ← Vector.getElem_ofFn (f := Machine.roundKey w) hi] at stored

end

/-! ### Steps of the key schedule -/

/-- While BUSY = 1 no host line touches the schedule (10_state.md R34, R37): the lines that store, complete or start take
BUSY = 0. -/
theorem HostEffect.schedule {s t : State} {op : HostOp} (he : HostEffect s op t) (hb : s.status.busy = true) :
    t.pw = s.pw ∧ t.stepIdx = s.stepIdx ∧ t.phase = s.phase ∧ t.rk = s.rk := by
  cases he
  case dropped | read | busyWrite => simp
  all_goals simp_all

/-- A micro-step in the key schedule keeps the window, or it stores the last round key. -/
theorem CoreEffect.keeps_window {s u : State} {w : Vector Word 8} (hc : CoreEffect s u) (hi : s.PhaseInv)
    (hp : s.InSchedule) (h : s.Window w) :
    u.InSchedule ∧ u.Window w ∨ u.phase = .idle ∧ u.status.keyValid = true ∧ u.rk = roundKeys w := by
  cases hc with
  | ksStep hp hs => exact Or.inl ⟨s.afterKsStep_inSchedule hs, h.afterKsStep hp hs⟩
  | ksSbox hp hg =>
    simp only [State.PhaseInv, hp] at hi
    obtain ⟨-, -, hm, h4⟩ := hi
    exact Or.inl ⟨Or.inl rfl, h.afterKsSbox hp hm h4⟩
  | ksLast hp hg => exact Or.inr ⟨rfl, rfl, h.lastRoundKey hp hg⟩
  | _ => exact absurd hp (by simp [State.InSchedule, *])

/-- SET_KEY enters KS_STEP only by starting the expansion (R183). -/
theorem exec_setKey_starts {s t : State} (h : exec .setKey s = .next t) (hs : s.phase ≠ .ksStep)
    (ht : t.phase = .ksStep) : t = s.startKey := by
  cases h
  obtain ⟨-, e⟩ | ⟨-, e⟩ := s.issue_cases (commandWord 0x1#4) (acceptSetKey s) <;> rw [e] at ht ⊢
  · exact absurd ht hs
  · cases hv : validate s.keyLen with
    | some e =>
      rw [acceptSetKey_of_illegal hv] at ht
      exact absurd ht hs
    | none => exact acceptSetKey_of_legal hv

theorem State.startKey_window (s : State) : s.startKey.Window (padWords s.keyLen.toNat s.key) :=
  ⟨isWindow_pad _, fun k hk => absurd hk (by simp [State.startKey])⟩

/-- Settles O53: SET_KEY starts with the padded key's window; the core's micro-steps take it on, the host's lines leave
it. -/
theorem prekeyWindowTracksRecurrence : Obligations.PrekeyWindowTracksRecurrence := by
  unfold Obligations.PrekeyWindowTracksRecurrence
  refine ⟨fun s t _ h hs ht => ?_, fun s t w hi hp hw h => ?_⟩
  · rw [exec_setKey_starts h hs ht]
    exact s.startKey_window
  · obtain ⟨-, rfl | ⟨u, hu, rfl⟩ | ⟨l, rest, -, hl⟩⟩ := step_effect h
    · exact Or.inl ⟨hp, hw⟩
    · obtain ⟨hp', hw'⟩ | done := hu.keeps_window hi.phase hp hw
      · exact Or.inl ⟨by simpa using hp', hw'.of_eq (by simp) (by simp) (by simp) (by simp)⟩
      · exact Or.inr (by simpa using done)
    · have hb := hi.busy.2 (by obtain hp | hp := hp <;> simp [hp])
      obtain ⟨hpw, hs, hphase, hrk⟩ := hl.schedule hb
      exact Or.inl ⟨hphase ▸ hp, hw.of_eq hpw hs hphase hrk⟩

end Sys2Proof.Machine
end

section
/-! PROOF. A whole SET_KEY run (43_key_schedule.md R181-R183): with no host line left every step is the core's, and each
counts as a word of the recurrence or a stored round key, 132 and 33 of them. -/

namespace Sys2Proof.Machine

/-! ### Runs -/

theorem run_succ_of_step {s u : State} (h : step s = .next u) (n : Nat) :
    Host.Core.run core (n + 1) s = Host.Core.run core n u := by
  have h' : core.step s = .next u := h
  simp only [Host.Core.run, h']

/-- A property of the number of steps taken and the state, once each step keeps it, holds after the run. -/
theorem run_keeps {P : Nat → State → Prop} {n : Nat} {s : State} (h0 : P 0 s)
    (hstep : ∀ m < n, ∀ u, P m u → ∃ v, step u = .next v ∧ P (m + 1) v) :
    ∃ u, Host.Core.run core n s = .next u ∧ P n u := by
  induction n generalizing P s with
  | zero => exact ⟨s, rfl, h0⟩
  | succ n ih =>
    obtain ⟨v, hv, h1⟩ := hstep 0 n.succ_pos s h0
    rw [run_succ_of_step hv]
    exact ih (P := fun m => P (m + 1)) h1 fun m hm => hstep (m + 1) (Nat.succ_lt_succ hm)

theorem CoreEffect.host {s u : State} (h : CoreEffect s u) : u.host = s.host := by
  cases h <;> simp [State.storeRoundKey]

/-- With no host line left, the step outside IDLE is the core's micro-step (44_round_network.md R222). -/
theorem CoreEffect.step_eq {s u : State} (h : CoreEffect s u) (hf : s.faults = []) (hh : s.host = []) :
    step s = .next u := by
  have spent : u.spendGap = u := by rw [State.spendGap, h.host, hh]
  rw [step_of_core hf (mover_of_no_line h.phase_ne_idle hh), h.coreStep_eq, spent]

/-! ### The expansion -/

/-- `m` micro-steps after `s`, the state in which the expansion of the padded key `w` started: one for each word of the
recurrence and one for each round key stored; only RK, PW, STEP and PHASE have changed. -/
structure State.Expanding (s : State) (w : Vector Word 8) (m : Nat) (u : State) : Prop where
  frame : u = { s with rk := u.rk, pw := u.pw, stepIdx := u.stepIdx, phase := u.phase }
  schedule : u.InSchedule
  inv : u.PhaseInv
  window : u.Window w
  elapsed : u.stepIdx.val + u.groupsDone = m

/-- The state after the last round key of the padded key `w`. -/
def State.Expanded (s : State) (w : Vector Word 8) (v : State) : Prop :=
  v = { s with
    status := { s.status with busy := false, keyValid := true, err := .none }, rk := roundKeys w, pw := v.pw,
    stepIdx := 132, phase := .idle }

theorem State.Expanded.rk_eq {s v : State} {w : Vector Word 8} (h : s.Expanded w v) : v.rk = roundKeys w := by
  rw [h]

/-- `m` micro-steps after the start: the expansion still runs, or it has just ended. -/
def State.ExpansionAt (s : State) (w : Vector Word 8) (m : Nat) (u : State) : Prop :=
  s.Expanding w m u ∨ m = 165 ∧ s.Expanded w u

section

variable {s u : State} {w : Vector Word 8} {m : Nat} (h : s.Expanding w m u)

include h

theorem State.Expanding.lt : m < 165 := by
  obtain ⟨-, hp | hp, inv, -, elapsed⟩ := h
  · simp only [State.PhaseInv, hp] at inv
    obtain ⟨-, -, hs⟩ := inv
    rw [State.groupsDone_ksStep hp] at elapsed
    omega
  · rw [State.groupsDone_ksSbox hp] at elapsed
    omega

theorem State.Expanding.status_eq : u.status = s.status := by rw [h.frame]

theorem State.Expanding.afterKsStep (hp : u.phase = .ksStep) (hs : u.stepIdx.val < 132) :
    s.Expanding w (m + 1) (u.afterKsStep hs) where
  frame := congrArg (fun x : State => { x with
    pw := (u.afterKsStep hs).pw, stepIdx := (u.afterKsStep hs).stepIdx, phase := (u.afterKsStep hs).phase }) h.frame
  schedule := u.afterKsStep_inSchedule hs
  inv := (State.coreEffect_afterKsStep hp hs).keeps_phaseInv h.inv
  window := h.window.afterKsStep hp hs
  elapsed := by
    rw [State.groupsDone_afterKsStep hp hs, ← h.elapsed]
    exact Nat.add_right_comm _ _ _

theorem State.Expanding.afterKsSbox (hp : u.phase = .ksSbox) (hg : u.group ≠ lastKey) :
    s.Expanding w (m + 1) u.afterKsSbox := by
  have inv := h.inv
  simp only [State.PhaseInv, hp] at inv
  obtain ⟨-, -, hm, h4⟩ := inv
  exact {
    frame := congrArg (fun x : State => { x with rk := u.storeRoundKey.rk, phase := .ksStep }) h.frame
    schedule := Or.inl rfl
    inv := (State.coreEffect_afterKsSbox hp hg).keeps_phaseInv h.inv
    window := h.window.afterKsSbox hp hm h4
    elapsed := by
      rw [State.groupsDone_afterKsSbox hp h4, ← h.elapsed]
      rfl }

theorem State.Expanding.lastRoundKey (hp : u.phase = .ksSbox) (hg : u.group = lastKey) :
    m = 164 ∧ s.Expanded w u.storeRoundKey.finishKey := by
  have hs : u.stepIdx = 132 := Fin.ext (u.group_eq_lastKey.1 hg)
  constructor
  · rw [← h.elapsed, State.groupsDone_ksSbox hp, hs]
    rfl
  · rw [State.Expanded, ← hs, ← h.window.lastRoundKey hp hg]
    exact congrArg (fun x : State => { x with rk := u.storeRoundKey.rk }.finishKey) h.frame

/-- A step of the expansion goes on with it, or after 165 micro-steps ends it. -/
theorem State.Expanding.next (hf : s.faults = []) (hh : s.host = []) :
    ∃ v, step u = .next v ∧ s.ExpansionAt w (m + 1) v := by
  have moves {v : State} (hv : CoreEffect u v) : step u = .next v :=
    hv.step_eq (by rw [h.frame, hf]) (by rw [h.frame, hh])
  obtain hp | hp := h.schedule
  · have inv := h.inv
    simp only [State.PhaseInv, hp] at inv
    obtain ⟨-, -, hs⟩ := inv
    have hlt := Nat.lt_succ_of_le hs
    exact ⟨_, moves (State.coreEffect_afterKsStep hp hlt), Or.inl (h.afterKsStep hp hlt)⟩
  · by_cases hg : u.group = lastKey
    · obtain ⟨rfl, expanded⟩ := h.lastRoundKey hp hg
      exact ⟨_, moves (.ksLast hp hg), Or.inr ⟨rfl, expanded⟩⟩
    · exact ⟨_, moves (State.coreEffect_afterKsSbox hp hg), Or.inl (h.afterKsSbox hp hg)⟩

end

/-- The whole expansion: 164 micro-steps in the key schedule, and the 165th ends it. -/
theorem run_expansion {s : State} {w : Vector Word 8} (h : s.Expanding w 0 s) (hf : s.faults = []) (hh : s.host = []) :
    (∀ m < 165, ∃ u, Host.Core.run core m s = .next u ∧ s.Expanding w m u) ∧
      ∃ v, Host.Core.run core 165 s = .next v ∧ s.Expanded w v := by
  have next (m : Nat) (hm : m < 165) (u : State) (hu : s.ExpansionAt w m u) :
      ∃ v, step u = .next v ∧ s.ExpansionAt w (m + 1) v :=
    (hu.resolve_right fun e => hm.ne e.1).next hf hh
  constructor
  · intro m hm
    obtain ⟨u, hu, at_m⟩ := run_keeps (P := s.ExpansionAt w) (Or.inl h) fun j hj => next j (hj.trans hm)
    exact ⟨u, hu, at_m.resolve_right fun e => hm.ne e.1⟩
  · obtain ⟨v, hv, at_end⟩ := run_keeps (P := s.ExpansionAt w) (Or.inl h) next
    exact ⟨v, hv, (at_end.resolve_left fun e => e.lt.ne rfl).2⟩

/-! ### SET_KEY as the host's one line -/

theorem State.unwrittenKeys_eq_nil {s : State} {n : Nat} (h : ∀ i : Fin 8, i.val < n / 4 → s.keyW.get i = true) :
    s.unwrittenKeys n = [] := by
  refine List.eq_nil_iff_forall_not_mem.2 fun f hf => ?_
  obtain ⟨i, hi, hw, -⟩ := (mem_unwrittenKeys s n f).1 hf
  rw [h i hi] at hw
  cases hw

theorem State.startKey_of_written {s : State} (h : s.unwrittenKeys s.keyLen.toNat = []) :
    s.startKey = { s with
      status := { s.status with keyValid := false, busy := true }, opc := 0x1#4, pw := padWords s.keyLen.toNat s.key,
      stepIdx := 0, phase := .ksStep } := by
  rw [State.startKey, h, State.raiseAll_nil]

theorem State.startKey_expanding (s : State) :
    s.startKey.Expanding (padWords s.keyLen.toNat s.key) 0 s.startKey where
  frame := rfl
  schedule := Or.inl rfl
  inv := ⟨rfl, rfl, Nat.zero_le _⟩
  window := s.startKey_window
  elapsed := by
    rw [State.groupsDone_ksStep (s := s.startKey) rfl]
    simp [State.startKey]

/-- The host's SET_KEY on a legal length starts the expansion (R183). -/
theorem step_setKey {s : State} {rest : List HostLine} (hp : s.phase = .idle) (hb : s.status.busy = false)
    (hf : s.faults = []) (hv : validate s.keyLen = none) (hs : s.host = cmd 0x1#4 :: rest) :
    step s = .next { s with host := rest }.startKey := by
  have write : step s = { s with host := rest }.busWrite (Reg.offset .cmd) 4 (commandWord 0x1#4) :=
    step_of_line hf hs (Or.inl hp) nofun
  rw [write, busWrite_cmd_of_instr _ (Laws.RoundTrip.setKey _ rfl),
    exec_setKey_idle (s := { s with host := rest }) hb, acceptSetKey_of_legal (s := { s with host := rest }) hv]

theorem scheduleOf_of_legal {n : Word} (h : validate n = none) (key : Vector Word 8) :
    scheduleOf n key = .keys (roundKeys (padWords n.toNat key)) := by
  rw [scheduleOf, h]

/-- Settles O54: the host's line starts the expansion, and the core runs it to its end. -/
theorem setKeyBuildsSchedule : Obligations.SetKeyBuildsSchedule := by
  unfold Obligations.SetKeyBuildsSchedule
  intro s hp hb hf h4 hn hw hs
  have legal := validate_of_legal h4 hn
  have start := step_setKey hp hb hf legal hs
  have start_eq := State.startKey_of_written (s := { s with host := [] }) (State.unwrittenKeys_eq_nil hw)
  obtain ⟨running, v, hv, expanded⟩ := run_expansion { s with host := [] }.startKey_expanding
    ((congrArg State.faults start_eq).trans hf) (congrArg State.host start_eq)
  constructor
  · intro m h1 hm
    obtain ⟨u, hu, expanding⟩ := running (m - 1) (by omega)
    have run := run_succ_of_step start (m - 1)
    rw [Nat.sub_add_cancel h1, hu] at run
    exact ⟨u, run, by rw [expanding.status_eq]; rfl, by rw [expanding.status_eq]; rfl⟩
  · have hrk : v.rk = roundKeys (padWords s.keyLen.toNat s.key) := expanded.rk_eq
    refine ⟨v, (run_succ_of_step start 165).trans hv, by rw [scheduleOf_of_legal legal, hrk], ?_⟩
    rw [start_eq] at expanded
    rw [hrk]
    exact expanded

end Sys2Proof.Machine
end

section
/-! PROOF. The core's micro-step in each phase (44_round_network.md R219). -/

namespace Sys2Proof.Machine

/-- In IDLE the core has no step (R219). -/
theorem coreStep_of_idle {s : State} (hp : s.phase = .idle) : s.microOp = none ∧ s.coreStep = .next s := by
  have noOp : s.microOp = none := State.microOp_of_phase hp
  exact ⟨noOp, by rw [State.coreStep, noOp]⟩

/-- Settles O41: in each phase the operation completes, and the micro-step is the phase's effect. -/
theorem coreFollowsPhaseTable : Obligations.CoreFollowsPhaseTable := by
  unfold Obligations.CoreFollowsPhaseTable
  refine fun s hinv => ⟨coreStep_of_idle, fun hne => ?_⟩
  have inv := hinv.phase
  have op {p : Phase} (hp : s.phase = p) := State.microOp_of_phase hp
  cases hp : s.phase <;> simp only [State.PhaseInv, hp] at inv ⊢
  case idle => exact absurd hp hne
  case ksStep =>
    obtain ⟨-, -, hs⟩ := inv
    have hlt := Nat.lt_succ_of_le hs
    exact ⟨.ksStep, _, _, op hp, exec_ksStep_of_lt hlt, (CoreEffect.ksStep hp hlt).coreStep_eq, rfl, by simp⟩
  case ksSbox =>
    by_cases hg : s.group = 32
    · exact ⟨.ksSbox s.group, _, _, op hp, rfl, (CoreEffect.ksLast hp hg).coreStep_eq, s.group, s.group_val, rfl,
        by simp [hg, State.storeRoundKey]⟩
    · exact ⟨.ksSbox s.group, _, _, op hp, rfl, (CoreEffect.ksSbox hp hg).coreStep_eq, s.group, s.group_val, rfl,
        by simp [hg, State.storeRoundKey]⟩
  case encMix =>
    exact ⟨.keymix s.rnd, _, _, op hp, exec_keymix _ _, (CoreEffect.encMix hp).coreStep_eq, rfl, by simp⟩
  case encSbox =>
    exact ⟨fwdInstr (roundBox s.rnd), _, _, op hp, exec_fwdInstr _ _, (CoreEffect.encSbox hp).coreStep_eq, rfl, by simp⟩
  case encLt =>
    obtain ⟨-, -, hr, -⟩ := inv
    have next : (Fin.ofNat 33 (s.rnd.val + 1)).val = s.rnd.val + 1 := Nat.mod_eq_of_lt (by omega)
    exact ⟨.lt, _, _, op hp, exec_lt _, (CoreEffect.encLt hp).coreStep_eq, rfl, by simpa using next, by simp⟩
  case encFinal =>
    exact ⟨.keymix lastKey, _, _, op hp, exec_keymix _ _, (CoreEffect.encFinal hp).coreStep_eq, rfl, by simp⟩
  case decMix32 =>
    exact ⟨.keymix lastKey, _, _, op hp, exec_keymix _ _, (CoreEffect.decMix32 hp).coreStep_eq, rfl, by simp⟩
  case decIlt =>
    exact ⟨.ilt, _, _, op hp, exec_ilt _, (CoreEffect.decIlt hp).coreStep_eq, rfl, by simp⟩
  case decIsbox =>
    exact ⟨invInstr (roundBox s.rnd), _, _, op hp, exec_invInstr _ _, (CoreEffect.decIsbox hp).coreStep_eq, rfl, by simp⟩
  case decMix =>
    by_cases hr : s.rnd.val = 0
    · exact ⟨.keymix s.rnd, _, _, op hp, exec_keymix _ _, (CoreEffect.decLast hp hr).coreStep_eq, rfl, by simp [hr]⟩
    · have next : (Fin.ofNat 33 (s.rnd.val - 1)).val = s.rnd.val - 1 := Nat.mod_eq_of_lt (by omega)
      refine ⟨.keymix s.rnd, _, _, op hp, exec_keymix _ _, (CoreEffect.decMix hp hr).coreStep_eq, rfl, ?_⟩
      rw [if_neg hr]
      exact ⟨by simp, by rw [State.spendGap_rnd, next]; omega⟩

end Sys2Proof.Machine
end

section
/-! PROOF. The normative functions `Encrypt` and `Decrypt` (44_round_network.md R201, R208): each as its rounds, the rounds
that undo each other, and the known-answer vector. -/

namespace Sys2Proof.Machine

/-! ### Rounds -/

/-- A round of `Encrypt` up to its S-box (R201). -/
def encryptSub (rk : Vector Quad 33) (r : Fin 33) (q : Quad) : Quad := sbox (roundBox r) (keymix rk r q)

/-- Round `r` of `Encrypt`: the last, 31, leaves LT out (R201). -/
def encryptRound (rk : Vector Quad 33) (r : Fin 33) (q : Quad) : Quad :=
  if r.val < 31 then lt (encryptSub rk r q) else encryptSub rk r q

/-- What a round of `Decrypt` gives its S-box: the first, 31, leaves ILT out (R208). -/
def decryptInput (r : Fin 33) (q : Quad) : Quad := if r.val < 31 then ilt q else q

/-- Round `r` of `Decrypt` (R208). -/
def decryptRound (rk : Vector Quad 33) (r : Fin 33) (q : Quad) : Quad :=
  keymix rk r (invSbox (roundBox r) (decryptInput r q))

theorem encryptRounds_succ (rk : Vector Quad 33) (p : Quad) (r : Fin 33) :
    encryptRounds rk p (r.val + 1) = encryptRound rk r (encryptRounds rk p r.val) := by
  have key : Fin.ofNat 33 r.val = r := Fin.ofNat_val_eq_self r
  rw [encryptRounds, key]
  rfl

theorem decryptRounds_succ (rk : Vector Quad 33) (c : Quad) {m : Nat} {r : Fin 33} (h : m + r.val = 31) :
    decryptRounds rk c (m + 1) = decryptRound rk r (decryptRounds rk c m) := by
  have key : Fin.ofNat 33 r.val = r := Fin.ofNat_val_eq_self r
  have hr : 31 - m = r.val := by omega
  rw [decryptRounds, hr, key]
  rfl

/-! ### Decryption inverts encryption -/

/-- KEYMIX undoes itself (R200). -/
@[simp] theorem keymix_keymix (rk : Vector Quad 33) (k : Fin 33) (q : Quad) : keymix rk k (keymix rk k q) = q := by
  simp [keymix, Quad.xor]

/-- Each operation of the round is undone in reverse order: LT, the S-box, KEYMIX. -/
theorem decryptRound_encryptRound (rk : Vector Quad 33) (r : Fin 33) (q : Quad) :
    decryptRound rk r (encryptRound rk r q) = q := by
  have input : decryptInput r (encryptRound rk r q) = encryptSub rk r q := by
    by_cases hl : r.val < 31
    · rw [decryptInput, if_pos hl, encryptRound, if_pos hl, ilt_lt]
    · rw [decryptInput, if_neg hl, encryptRound, if_neg hl]
  rw [decryptRound, input, encryptSub, (sboxInverseLaw _ _).1, keymix_keymix]

theorem encryptRound_decryptRound (rk : Vector Quad 33) (r : Fin 33) (q : Quad) :
    encryptRound rk r (decryptRound rk r q) = q := by
  have sub : encryptSub rk r (decryptRound rk r q) = decryptInput r q := by
    rw [encryptSub, decryptRound, keymix_keymix, (sboxInverseLaw _ _).2]
  by_cases hl : r.val < 31
  · rw [encryptRound, if_pos hl, sub, decryptInput, if_pos hl, lt_ilt]
  · rw [encryptRound, if_neg hl, sub, decryptInput, if_neg hl]

/-- `m` rounds of `Decrypt` take the ciphertext back to what `Encrypt` had before its last `m` rounds. -/
theorem decryptRounds_encryptBlock (rk : Vector Quad 33) (p : Quad) {m r : Nat} (h : m + r = 32) :
    decryptRounds rk (encryptBlock rk p) m = encryptRounds rk p r := by
  induction m generalizing r with
  | zero =>
    obtain rfl : r = 32 := by omega
    exact keymix_keymix rk 32 _
  | succ m ih =>
    have round := encryptRounds_succ rk p ⟨r, by omega⟩
    rw [decryptRounds_succ rk _ (r := ⟨r, by omega⟩) (by simp only; omega), ih (r := r + 1) (by omega), round,
      decryptRound_encryptRound]

/-- `r` rounds of `Encrypt` take the deciphered block to what `Decrypt` had before its last `r` rounds. -/
theorem encryptRounds_decryptBlock (rk : Vector Quad 33) (c : Quad) {m r : Nat} (h : m + r = 32) :
    encryptRounds rk (decryptBlock rk c) r = decryptRounds rk c m := by
  induction r generalizing m with
  | zero =>
    obtain rfl : m = 32 := by omega
    rfl
  | succ r ih =>
    have round := encryptRounds_succ rk (decryptBlock rk c) ⟨r, by omega⟩
    rw [round, ih (m := m + 1) (by omega), decryptRounds_succ rk c (r := ⟨r, by omega⟩) (by simp only; omega),
      encryptRound_decryptRound]

/-- Settles O57: round by round, and the last KEYMIX undoes the first. -/
theorem decryptInvertsEncrypt : Obligations.DecryptInvertsEncrypt := by
  unfold Obligations.DecryptInvertsEncrypt
  refine fun rk q => ⟨decryptRounds_encryptBlock rk q (Nat.add_zero 32), ?_⟩
  rw [encryptBlock, encryptRounds_decryptBlock rk q (Nat.zero_add 32)]
  exact keymix_keymix rk 32 q

/-! ### The known-answer vector -/

/-- The words of the key `00 01 ... 1F` (R210). -/
def knownKey : Vector Word 8 :=
  #v[0x03020100#32, 0x07060504#32, 0x0B0A0908#32, 0x0F0E0D0C#32, 0x13121110#32, 0x17161514#32, 0x1B1A1918#32, 0x1F1E1D1C#32]

/-- A 32-byte key takes no padding (43_key_schedule.md R172). -/
theorem padWords_knownKey :
    padWords 32 (Vector.ofFn fun i : Fin 8 => le32 ((List.range 32).map (BitVec.ofNat 8)) i.val) = knownKey := by
  decide

/-- The cipher evaluated by the kernel: 33 round keys and 32 rounds. -/
theorem encryptBlock_knownKey :
    encryptBlock (roundKeys knownKey) ⟨0x03020100#32, 0x07060504#32, 0x0B0A0908#32, 0x0F0E0D0C#32⟩ =
      ⟨0xF89F26DE#32, 0xB832E433#32, 0xD2882E5B#32, 0x5CE71C70#32⟩ := by
  decide +kernel

/-- Settles O58: the encryption is evaluated; the decryption inverts it. -/
theorem knownAnswerVector : Obligations.KnownAnswerVector := by
  unfold Obligations.KnownAnswerVector
  intro kb rk p c
  have hrk : rk = roundKeys knownKey := congrArg roundKeys padWords_knownKey
  have hp : p = ⟨0x03020100#32, 0x07060504#32, 0x0B0A0908#32, 0x0F0E0D0C#32⟩ := by decide
  have hc : encryptBlock rk p = c := by
    rw [hrk, hp]
    exact encryptBlock_knownKey
  refine ⟨hp, hc, ?_, by decide⟩
  rw [← hc]
  exact (decryptInvertsEncrypt rk p).1

end Sys2Proof.Machine
end

section
/-! PROOF. KEYMIX as an operation, the acceptance steps of NOP, ENCRYPT and DECRYPT, and the controller's sequence
(44_round_network.md R200-R221). -/

namespace Sys2Proof.Machine

/-! ### KEYMIX on the banks -/

theorem keymix_get (rk : Vector Quad 33) (k : Fin 33) (q : Quad) (i : Fin 4) :
    (keymix rk k q).get i = q.get i ^^^ (rk.get k).get i := by
  fin_cases i <;> rfl

/-- An operation in place that undoes another one gives the old state back. -/
theorem State.inPlace_inPlace_of_undo (s : State) {f g : Quad → Quad} (h : ∀ q, g (f q) = q) :
    (s.inPlace f).inPlace g = s := by
  rw [State.inPlace, State.inPlace_active, State.inPlace_act, h]
  unfold State.inPlace State.active
  cases s.act <;> rfl

/-- Settles O18: KEYMIX completes as `State.inPlace`, and its function undoes itself. -/
theorem keymixXorsRoundKey : Obligations.KeymixXorsRoundKey := by
  unfold Obligations.KeymixXorsRoundKey
  refine fun s k => ⟨_, exec_keymix k s, s.inPlace_eq _, s.inPlace_bank_other _, fun i => ?_, ?_⟩
  · rw [State.inPlace_bank_act, keymix_get]
  · rw [exec_keymix, State.inPlace_rk, s.inPlace_inPlace_of_undo (keymix_keymix s.rk k)]

/-! ### Acceptance steps -/

theorem State.issue_idle {s : State} (hb : s.status.busy = false) (c : Word) (t : State) : s.issue c t = t := by
  rw [State.issue, hb]
  rfl

theorem State.issue_busy {s : State} (hb : s.status.busy = true) (c : Word) (t : State) :
    s.issue c t = s.busyWrite .cmd c := by
  rw [State.issue, hb]
  rfl

theorem exec_encrypt_idle {s : State} (hb : s.status.busy = false) :
    exec .encrypt s = .next (acceptBlock 0x2#4 0 .encMix s) := by
  rw [exec, execEncrypt, State.issue_idle hb]

theorem exec_decrypt_idle {s : State} (hb : s.status.busy = false) :
    exec .decrypt s = .next (acceptBlock 0x3#4 31 .decMix32 s) := by
  rw [exec, execDecrypt, State.issue_idle hb]

/-- Settles O23: in an idle core NOP completes, in a busy one it is the busy write of its word. -/
theorem nopClearsErr : Obligations.NopClearsErr := by
  unfold Obligations.NopClearsErr
  refine fun s => ⟨fun hb => ?_, fun hb => ?_⟩
  · rw [exec, execNop, State.issue_idle hb, State.complete_idle hb]
  · rw [exec, execNop, State.issue_busy hb]
    rfl

/-- The faults recorded for the block (R212, R217; 60_exceptions.md R258). -/
theorem mem_startBlock_faults (s : State) (op : BitVec 4) (r : Fin 33) (p : Phase) (f : Fault) :
    f ∈ (s.startBlock op r p).faults ↔ f ∈ s.faults ∨ ∃ i : Fin 4, s.dinW.get i = false ∧ f = .unwrittenInput (.din i) := by
  rw [← mem_unwrittenDin]
  exact State.mem_raiseAll _ _ _

/-- The start of the rounds changes the named fields only. -/
theorem State.startBlock_eq (s : State) (op : BitVec 4) (r : Fin 33) (p : Phase) :
    s.startBlock op r p = { s with
      status := { s.status with busy := true }, opc := op, bankA := s.din, act := .a, rnd := r, phase := p,
      faults := (s.startBlock op r p).faults } := by
  rw [State.startBlock, State.raiseAll_eq]

theorem exec_encrypt_accepted {s : State} (hb : s.status.busy = false) (hk : s.status.keyValid = true) :
    exec .encrypt s = .next (s.startBlock 0x2#4 0 .encMix) := by
  rw [exec_encrypt_idle hb, acceptBlock_of_schedule hk]

theorem exec_decrypt_accepted {s : State} (hb : s.status.busy = false) (hk : s.status.keyValid = true) :
    exec .decrypt s = .next (s.startBlock 0x3#4 31 .decMix32) := by
  rw [exec_decrypt_idle hb, acceptBlock_of_schedule hk]

/-- Settles O26: with a schedule both acceptance steps are the start of the rounds. -/
theorem blockCommandsAccepted : Obligations.BlockCommandsAccepted := by
  unfold Obligations.BlockCommandsAccepted
  intro s hb hk
  exact ⟨⟨_, exec_encrypt_accepted hb hk, mem_startBlock_faults s _ _ _, s.startBlock_eq _ _ _⟩,
    ⟨_, exec_decrypt_accepted hb hk, mem_startBlock_faults s _ _ _, s.startBlock_eq _ _ _⟩⟩

/-- Settles O27: without a schedule both commands complete with the same code and fault. -/
theorem blockCommandsWithoutSchedule : Obligations.BlockCommandsWithoutSchedule := by
  unfold Obligations.BlockCommandsWithoutSchedule
  intro s hb hk
  rw [exec_encrypt_idle hb, exec_decrypt_idle hb, acceptBlock_of_no_schedule hk, acceptBlock_of_no_schedule hk,
    State.complete_idle hb]
  exact ⟨_, rfl, rfl, State.mem_raise _ _, State.raise_eq _ _⟩

/-! ### The sequence of micro-steps -/

/-- What the controller's sequence is made of (R219). -/
def State.sequencer (s : State) : Phase × Fin 133 × Fin 33 × Bank := (s.phase, s.stepIdx, s.rnd, s.act)

theorem State.sequencer_eq_iff (s t : State) : s.sequencer = t.sequencer ↔
    s.phase = t.phase ∧ s.stepIdx = t.stepIdx ∧ s.rnd = t.rnd ∧ s.act = t.act := by
  simp [State.sequencer]

@[simp] theorem State.spendGap_sequencer (s : State) : s.spendGap.sequencer = s.sequencer := by
  simp [State.sequencer]

/-- From another state with the same sequencer the core takes the micro-step of the same phase, and leaves the same
sequencer: no phase looks at the key, the block, the round keys or the banks (R291). -/
theorem CoreEffect.of_sequencer {s t u : State} (h : CoreEffect s u) (hst : s.sequencer = t.sequencer) :
    ∃ v, CoreEffect t v ∧ u.sequencer = v.sequencer := by
  obtain ⟨hphase, hstep, hrnd, hact⟩ := (State.sequencer_eq_iff s t).1 hst
  have hgroup : s.group = t.group := by rw [State.group, hstep, State.group]
  cases h with
  | ksStep hp hs => exact ⟨_, .ksStep (hphase ▸ hp) (hstep ▸ hs), by simp [State.sequencer, *]⟩
  | ksSbox hp hg => exact ⟨_, .ksSbox (hphase ▸ hp) (hgroup ▸ hg), by simp [State.sequencer, State.storeRoundKey, *]⟩
  | ksLast hp hg => exact ⟨_, .ksLast (hphase ▸ hp) (hgroup ▸ hg), by simp [State.sequencer, State.storeRoundKey, *]⟩
  | encMix hp => exact ⟨_, .encMix (hphase ▸ hp), by simp [State.sequencer, *]⟩
  | encSbox hp => exact ⟨_, .encSbox (hphase ▸ hp), by simp [State.sequencer, *]⟩
  | encLt hp => exact ⟨_, .encLt (hphase ▸ hp), by simp [State.sequencer, *]⟩
  | encFinal hp => exact ⟨_, .encFinal (hphase ▸ hp), by simp [State.sequencer, *]⟩
  | decMix32 hp => exact ⟨_, .decMix32 (hphase ▸ hp), by simp [State.sequencer, *]⟩
  | decIlt hp => exact ⟨_, .decIlt (hphase ▸ hp), by simp [State.sequencer, *]⟩
  | decIsbox hp => exact ⟨_, .decIsbox (hphase ▸ hp), by simp [State.sequencer, *]⟩
  | decMix hp hr => exact ⟨_, .decMix (hphase ▸ hp) (hrnd ▸ hr), by simp [State.sequencer, *]⟩
  | decLast hp hr => exact ⟨_, .decLast (hphase ▸ hp) (hrnd ▸ hr), by simp [State.sequencer, *]⟩

/-- Settles O60: in IDLE neither core has a step; in the other phases both take the phase's micro-step. -/
theorem sequencingIgnoresData : Obligations.SequencingIgnoresData := by
  unfold Obligations.SequencingIgnoresData
  intro s t s' hphase hstep hrnd hact h
  have hst := (State.sequencer_eq_iff s t).2 ⟨hphase, hstep, hrnd, hact⟩
  obtain ⟨hp, rfl⟩ | ⟨u, hu, rfl⟩ := coreStep_effect h
  · exact ⟨t, (coreStep_of_idle (hphase ▸ hp)).2, hphase, hstep, hrnd, hact⟩
  · obtain ⟨v, hv, huv⟩ := hu.of_sequencer hst
    exact ⟨_, hv.coreStep_eq, (State.sequencer_eq_iff _ _).1 (by simpa using huv)⟩

end Sys2Proof.Machine
end

section
/-! PROOF. A whole ENCRYPT or DECRYPT run (44_round_network.md R207, R215, R222): with no host line left every step is the
core's, and the number of micro-steps taken gives the phase, the round and what the working state holds. -/

namespace Sys2Proof.Machine

/-! ### What the two runs share -/

/-- A run whose every step but the last leads to the next place ends where the last step leads. -/
theorem run_ends {P : Nat → State → Prop} {E : State → Prop} {n : Nat} {s : State} (h0 : P 0 s)
    (next : ∀ m < n, ∀ u, P m u → ∃ v, step u = .next v ∧ P (m + 1) v)
    (last : ∀ u, P n u → ∃ v, step u = .next v ∧ E v) : ∃ v, Host.Core.run core (n + 1) s = .next v ∧ E v := by
  induction n generalizing P s with
  | zero =>
    obtain ⟨v, hv, ended⟩ := last s h0
    exact ⟨v, run_succ_of_step hv 0, ended⟩
  | succ n ih =>
    obtain ⟨u, hu, h1⟩ := next 0 n.succ_pos s h0
    rw [run_succ_of_step hu]
    exact ih (P := fun m => P (m + 1)) h1 (fun m hm => next (m + 1) (Nat.succ_lt_succ hm)) last

/-- A micro-step inside the rounds changes only the working state's fields (R204). -/
theorem CoreEffect.rounds_eq {u v : State} (h : CoreEffect u v) (hu : u.phase.InRounds) (hv : v.phase ≠ .idle) :
    v = { u with bankA := v.bankA, bankB := v.bankB, act := v.act, rnd := v.rnd, phase := v.phase } := by
  obtain ⟨-, hstep, hsbox⟩ := hu
  cases h with
  | ksStep hp hs => exact absurd hp hstep
  | ksSbox hp hg => exact absurd hp hsbox
  | ksLast hp hg => exact absurd hp hsbox
  | encFinal hp => exact absurd rfl hv
  | decLast hp hr => exact absurd rfl hv
  | _ => simp

/-- The last micro-step of a block command with `ACT = A` (R207, R215). -/
theorem State.finishBlock_inPlace {u : State} (ha : u.act = .a) (f : Quad → Quad) :
    (u.inPlace f).finishBlock = { u with
      status := { u.status with busy := false, doutValid := true, err := .none }, dout := f u.active,
      bankA := f u.active, act := .a, phase := .idle } := by
  cases u
  cases ha
  rfl

/-- How the 96 micro-steps of a block command go, `At m` saying what the state is after `m` of them: under the round keys `rk`
each leads to the next, and the last gives `q` on bank A with RND = `r`. -/
structure BlockRun (rk : Vector Quad 33) (q : Quad) (r : Fin 33) (At : Nat → State → Prop) : Prop where
  inRounds : ∀ {m u}, At m u → u.phase.InRounds
  next : ∀ {m u}, m < 95 → u.PhaseInv → u.rk = rk → At m u → ∃ v, CoreEffect u v ∧ At (m + 1) v
  last : ∀ {u}, u.PhaseInv → u.rk = rk → At 95 u →
    ∃ f, CoreEffect u (u.inPlace f).finishBlock ∧ f u.active = q ∧ u.act = .a ∧ u.rnd = r

/-- `m` micro-steps after `s`, the state in which the rounds started. -/
structure State.InRun (s : State) (At : Nat → State → Prop) (m : Nat) (u : State) : Prop where
  frame : u = { s with bankA := u.bankA, bankB := u.bankB, act := u.act, rnd := u.rnd, phase := u.phase }
  inv : u.PhaseInv
  place : At m u

/-- The state after a block command with the result `q`, started in `s`. -/
def State.Answered (s : State) (q : Quad) (r : Fin 33) (t : State) : Prop :=
  t = { s with
    status := { s.status with busy := false, doutValid := true, err := .none }, dout := q, bankA := q, bankB := t.bankB,
    act := .a, rnd := r, phase := .idle }

section

variable {s u : State} {At : Nat → State → Prop} {q : Quad} {r : Fin 33} {m : Nat} (h : s.InRun At m u)

include h

theorem State.InRun.rk_eq : u.rk = s.rk := by rw [h.frame]

theorem State.InRun.step_eq {v : State} (hf : s.faults = []) (hh : s.host = []) (hv : CoreEffect u v) :
    step u = .next v :=
  hv.step_eq (by rw [h.frame, hf]) (by rw [h.frame, hh])

theorem State.InRun.next (run : BlockRun s.rk q r At) (hf : s.faults = []) (hh : s.host = []) (hm : m < 95) :
    ∃ v, step u = .next v ∧ s.InRun At (m + 1) v := by
  obtain ⟨v, hv, place⟩ := run.next hm h.inv h.rk_eq h.place
  obtain ⟨hne, -⟩ := run.inRounds place
  refine ⟨v, h.step_eq hf hh hv, ?_, hv.keeps_phaseInv h.inv, place⟩
  exact (hv.rounds_eq (run.inRounds h.place) hne).trans (congrArg (fun x : State => { x with
    bankA := v.bankA, bankB := v.bankB, act := v.act, rnd := v.rnd, phase := v.phase }) h.frame)

theorem State.InRun.last (run : BlockRun s.rk q r At) (hf : s.faults = []) (hh : s.host = []) (hm : m = 95) :
    ∃ v, step u = .next v ∧ s.Answered q r v := by
  subst hm
  obtain ⟨f, hv, rfl, ha, rfl⟩ := run.last h.inv h.rk_eq h.place
  refine ⟨_, h.step_eq hf hh hv, ?_⟩
  rw [State.finishBlock_inPlace ha]
  exact congrArg (fun x : State => { x with
    status := { x.status with busy := false, doutValid := true, err := .none }, dout := f u.active,
    bankA := f u.active, act := .a, phase := .idle }) h.frame

end

/-- The whole run of the micro-steps: 95 inside the rounds, and the 96th ends it. -/
theorem run_rounds {s : State} {At : Nat → State → Prop} {q : Quad} {r : Fin 33} (h : s.InRun At 0 s)
    (run : BlockRun s.rk q r At) (hf : s.faults = []) (hh : s.host = []) :
    (∀ m ≤ 95, ∃ u, Host.Core.run core m s = .next u ∧ s.InRun At m u) ∧
      ∃ t, Host.Core.run core 96 s = .next t ∧ s.Answered q r t :=
  ⟨fun _ hm => run_keeps h fun _ hj _ hu => hu.next run hf hh (hj.trans_le hm),
    run_ends h (fun _ hm _ hu => hu.next run hf hh hm) fun _ hu => hu.last run hf hh rfl⟩

/-! ### A block command as the host's one line -/

theorem State.startBlock_of_written {s : State} (h : ∀ i : Fin 4, s.dinW.get i = true) (op : BitVec 4) (r : Fin 33)
    (p : Phase) : s.startBlock op r p = { s with
      status := { s.status with busy := true }, opc := op, bankA := s.din, act := .a, rnd := r, phase := p } := by
  have none : s.unwrittenDin = [] := by
    refine List.eq_nil_iff_forall_not_mem.2 fun f hf => ?_
    obtain ⟨i, hw, -⟩ := (mem_unwrittenDin s f).1 hf
    rw [h i] at hw
    cases hw
  rw [State.startBlock, none, State.raiseAll_nil]

/-- The host's command line is the instruction it decodes to. -/
theorem step_cmd {s : State} {op : BitVec 4} {i : Instr} {rest : List HostLine} (hp : s.phase = .idle)
    (hf : s.faults = []) (hs : s.host = cmd op :: rest) (hd : decodeWord (commandWord op) = .instr i) :
    step s = exec i { s with host := rest } := by
  have write : step s = { s with host := rest }.busWrite (Reg.offset .cmd) 4 (commandWord op) :=
    step_of_line hf hs (Or.inl hp) nofun
  rw [write, busWrite_cmd_of_instr _ hd]

/-- A block command's run from the host's line on: BUSY = 1 and the old DOUT for 96 steps, the result `q` after 97. -/
def State.RunsTo (s : State) (op : BitVec 4) (q : Quad) (r : Fin 33) : Prop :=
  (∀ m, 1 ≤ m → m ≤ 96 → ∃ u : State, Host.Core.run core m s = .next u ∧ u.status.busy = true ∧ u.dout = s.dout) ∧
    ∃ t : State, Host.Core.run core 97 s = .next t ∧ ({ s with opc := op, host := [] } : State).Answered q r t

/-- The host's line starts the rounds of its command, and the core runs them to their end. -/
theorem runsTo_of_blockRun {s : State} {At : Nat → State → Prop} {op : BitVec 4} {i : Instr} {q : Quad} {r r' : Fin 33}
    {p : Phase} (hp : s.phase = .idle) (hf : s.faults = []) (hw : ∀ i : Fin 4, s.dinW.get i = true)
    (hs : s.host = [cmd op]) (hd : decodeWord (commandWord op) = .instr i)
    (accepted : exec i { s with host := [] } = .next ({ s with host := [] }.startBlock op r' p))
    (inv : ({ s with host := [] }.startBlock op r' p).PhaseInv) (place : At 0 ({ s with host := [] }.startBlock op r' p))
    (run : BlockRun s.rk q r At) : s.RunsTo op q r := by
  have start := (step_cmd hp hf hs hd).trans accepted
  rw [State.startBlock_of_written (s := { s with host := [] }) hw] at start inv place
  obtain ⟨running, t, ht, answered⟩ := run_rounds ⟨rfl, inv, place⟩ run hf rfl
  refine ⟨fun m h1 hm => ?_, t, (run_succ_of_step start 96).trans ht, answered⟩
  obtain ⟨v, hv, inRun⟩ := running (m - 1) (by omega)
  have first := run_succ_of_step start (m - 1)
  rw [Nat.sub_add_cancel h1, hv] at first
  exact ⟨v, first, by rw [inRun.frame], by rw [inRun.frame]⟩

/-! ### ENCRYPT -/

/-- Where an ENCRYPT of `p` is after `m` micro-steps: three to a round, and the last KEYMIX in round 31 (R207). -/
inductive EncryptAt (rk : Vector Quad 33) (p : Quad) (m : Nat) (u : State) : Prop where
  | mix (hp : u.phase = .encMix) (hm : m = 3 * u.rnd.val) (hq : u.active = encryptRounds rk p u.rnd.val)
  | sub (hp : u.phase = .encSbox) (hm : m = 3 * u.rnd.val + 1)
    (hq : u.active = keymix rk u.rnd (encryptRounds rk p u.rnd.val))
  | lt (hp : u.phase = .encLt) (hm : m = 3 * u.rnd.val + 2)
    (hq : u.active = encryptSub rk u.rnd (encryptRounds rk p u.rnd.val))
  | final (hp : u.phase = .encFinal) (hm : m = 95) (hq : u.active = encryptRounds rk p 32)

theorem EncryptAt.inRounds {rk : Vector Quad 33} {p : Quad} {m : Nat} {u : State} (h : EncryptAt rk p m u) :
    u.phase.InRounds := by
  cases h <;> simp [Phase.InRounds, *]

/-- Each micro-step of ENCRYPT computes the next part of the round (R207). -/
theorem EncryptAt.next {rk : Vector Quad 33} {p : Quad} {m : Nat} {u : State} (h : EncryptAt rk p m u) (hm : m < 95)
    (inv : u.PhaseInv) (hrk : u.rk = rk) : ∃ v, CoreEffect u v ∧ EncryptAt rk p (m + 1) v := by
  have round := encryptRounds_succ rk p u.rnd
  unfold encryptRound at round
  cases h with
  | mix hp ht hq =>
    refine ⟨_, .encMix hp, .sub rfl (by simp [ht]) ((u.inPlace_active _).trans ?_)⟩
    rw [hq, hrk, State.inPlace_rnd]
  | sub hp ht hq =>
    refine ⟨_, .encSbox hp, ?_⟩
    have active : (u.across (sbox (roundBox u.rnd))).active = encryptSub rk u.rnd (encryptRounds rk p u.rnd.val) := by
      rw [State.across_active, hq, encryptSub]
    by_cases hl : u.rnd.val < 31
    · exact .lt (if_pos hl) (by simp [ht]) (active.trans (by rw [State.across_rnd]))
    · simp only [State.PhaseInv, hp] at inv
      obtain ⟨-, -, hr, -⟩ := inv
      have hr : u.rnd.val = 31 := by omega
      rw [if_neg hl, hr] at round
      exact .final (if_neg hl) (by omega) (active.trans (by rw [hr, round]))
  | lt hp ht hq =>
    simp only [State.PhaseInv, hp] at inv
    obtain ⟨-, -, hr, -⟩ := inv
    have succ : (Fin.ofNat 33 (u.rnd.val + 1)).val = u.rnd.val + 1 := Nat.mod_eq_of_lt (by omega)
    rw [if_pos (by omega), ← hq] at round
    exact ⟨_, .encLt hp, .mix rfl (by rw [succ]; omega) ((u.inPlace_active _).trans (by rw [succ, round]))⟩
  | final hp ht hq => omega

/-- The last KEYMIX gives `Encrypt(p)` (R201, R207). -/
theorem EncryptAt.last {rk : Vector Quad 33} {p : Quad} {u : State} (h : EncryptAt rk p 95 u) (inv : u.PhaseInv)
    (hrk : u.rk = rk) :
    ∃ f, CoreEffect u (u.inPlace f).finishBlock ∧ f u.active = encryptBlock rk p ∧ u.act = .a ∧ u.rnd = 31 := by
  cases h with
  | mix hp ht hq => omega
  | sub hp ht hq => omega
  | lt hp ht hq =>
    simp only [State.PhaseInv, hp] at inv
    omega
  | final hp ht hq =>
    simp only [State.PhaseInv, hp] at inv
    obtain ⟨-, -, hr, ha⟩ := inv
    exact ⟨_, .encFinal hp, by rw [hq, hrk]; rfl, ha, Fin.ext hr⟩

theorem blockRun_encrypt (rk : Vector Quad 33) (p : Quad) : BlockRun rk (encryptBlock rk p) 31 (EncryptAt rk p) where
  inRounds := EncryptAt.inRounds
  next hm inv hrk h := h.next hm inv hrk
  last inv hrk h := h.last inv hrk

/-- Settles O55: the host's line starts the rounds, and the core runs them to their end. -/
theorem encryptRunComputesEncrypt : Obligations.EncryptRunComputesEncrypt := by
  unfold Obligations.EncryptRunComputesEncrypt
  intro s hp hb hf hk hw hs
  exact runsTo_of_blockRun hp hf hw hs (Laws.RoundTrip.encrypt _ rfl) (exec_encrypt_accepted hb hk)
    ⟨hk, rfl, Nat.zero_le _, rfl⟩ (.mix rfl rfl rfl) (blockRun_encrypt s.rk s.din)

/-! ### DECRYPT -/

/-- Where a DECRYPT of `c` is after `m` micro-steps: the first KEYMIX, then three to a round from 31 down, without the ILT of
round 31 (R215). -/
inductive DecryptAt (rk : Vector Quad 33) (c : Quad) (m : Nat) (u : State) : Prop where
  | mix32 (hp : u.phase = .decMix32) (hm : m = 0) (hq : u.active = c)
  | ilt (hp : u.phase = .decIlt) (hm : m + 3 * u.rnd.val = 93) (hq : u.active = decryptRounds rk c (31 - u.rnd.val))
  | sub (hp : u.phase = .decIsbox) (hm : m + 3 * u.rnd.val = 94)
    (hq : u.active = decryptInput u.rnd (decryptRounds rk c (31 - u.rnd.val)))
  | mix (hp : u.phase = .decMix) (hm : m + 3 * u.rnd.val = 95)
    (hq : u.active = invSbox (roundBox u.rnd) (decryptInput u.rnd (decryptRounds rk c (31 - u.rnd.val))))

theorem DecryptAt.inRounds {rk : Vector Quad 33} {c : Quad} {m : Nat} {u : State} (h : DecryptAt rk c m u) :
    u.phase.InRounds := by
  cases h <;> simp [Phase.InRounds, *]

/-- The KEYMIX of round `r` ends the round (R208). -/
theorem DecryptAt.keymix_active {rk : Vector Quad 33} {c : Quad} {u : State} (hr : u.rnd.val ≤ 31)
    (hq : u.active = invSbox (roundBox u.rnd) (decryptInput u.rnd (decryptRounds rk c (31 - u.rnd.val)))) :
    keymix rk u.rnd u.active = decryptRounds rk c (31 - u.rnd.val + 1) := by
  rw [hq, decryptRounds_succ rk c (r := u.rnd) (by omega), decryptRound]

/-- Each micro-step of DECRYPT computes the next part of the round (R215). -/
theorem DecryptAt.next {rk : Vector Quad 33} {c : Quad} {m : Nat} {u : State} (h : DecryptAt rk c m u) (hm : m < 95)
    (inv : u.PhaseInv) (hrk : u.rk = rk) : ∃ v, CoreEffect u v ∧ DecryptAt rk c (m + 1) v := by
  cases h with
  | mix32 hp ht hq =>
    simp only [State.PhaseInv, hp] at inv
    obtain ⟨-, -, hr, -⟩ := inv
    refine ⟨_, .decMix32 hp, .sub rfl (by simp [ht, hr]) ((u.inPlace_active _).trans ?_)⟩
    rw [hq, hrk, State.inPlace_rnd, decryptInput, hr]
    rfl
  | ilt hp ht hq =>
    simp only [State.PhaseInv, hp] at inv
    obtain ⟨-, -, hr, -⟩ := inv
    refine ⟨_, .decIlt hp, .sub rfl (by rw [State.inPlace_rnd]; omega) ((u.inPlace_active _).trans ?_)⟩
    rw [hq, State.inPlace_rnd, decryptInput, if_pos (by omega)]
  | sub hp ht hq =>
    refine ⟨_, .decIsbox hp, .mix rfl (by rw [State.across_rnd]; omega) ((u.across_active _).trans ?_)⟩
    rw [hq, State.across_rnd]
  | mix hp ht hq =>
    simp only [State.PhaseInv, hp] at inv
    obtain ⟨-, -, hr, -⟩ := inv
    have pred : (Fin.ofNat 33 (u.rnd.val - 1)).val = u.rnd.val - 1 := Nat.mod_eq_of_lt (by omega)
    refine ⟨_, .decMix hp (by omega), .ilt rfl (by rw [pred]; omega) ((u.inPlace_active _).trans ?_)⟩
    rw [hrk, DecryptAt.keymix_active hr hq, pred, show 31 - u.rnd.val + 1 = 31 - (u.rnd.val - 1) by omega]

/-- The KEYMIX of round 0 gives `Decrypt(c)` (R208, R215). -/
theorem DecryptAt.last {rk : Vector Quad 33} {c : Quad} {u : State} (h : DecryptAt rk c 95 u) (inv : u.PhaseInv)
    (hrk : u.rk = rk) :
    ∃ f, CoreEffect u (u.inPlace f).finishBlock ∧ f u.active = decryptBlock rk c ∧ u.act = .a ∧ u.rnd = 0 := by
  cases h with
  | mix32 hp ht hq => omega
  | ilt hp ht hq => omega
  | sub hp ht hq => omega
  | mix hp ht hq =>
    have hr : u.rnd = 0 := Fin.ext (by simpa using ht)
    have active := DecryptAt.keymix_active (by rw [hr]; decide) hq
    simp only [State.PhaseInv, hp] at inv
    obtain ⟨-, -, -, ha⟩ := inv
    rw [hr] at ha active
    exact ⟨_, .decLast hp (by rw [hr]; rfl), by rw [hrk, hr]; exact active, ha, hr⟩

theorem blockRun_decrypt (rk : Vector Quad 33) (c : Quad) : BlockRun rk (decryptBlock rk c) 0 (DecryptAt rk c) where
  inRounds := DecryptAt.inRounds
  next hm inv hrk h := h.next hm inv hrk
  last inv hrk h := h.last inv hrk

/-- Settles O56: as for ENCRYPT, with the rounds from 31 down. -/
theorem decryptRunComputesDecrypt : Obligations.DecryptRunComputesDecrypt := by
  unfold Obligations.DecryptRunComputesDecrypt
  intro s hp hb hf hk hw hs
  exact runsTo_of_blockRun hp hf hw hs (Laws.RoundTrip.decrypt _ rfl) (exec_decrypt_accepted hb hk)
    ⟨hk, rfl, rfl, rfl⟩ (.mix32 rfl rfl rfl) (blockRun_decrypt s.rk s.din)

end Sys2Proof.Machine
end

section
/-! PROOF. Faults and quiet states (60_exceptions.md): the busy write, the faults of a host read, the inputs that a command
consumes, and the states without a further step. -/

namespace Sys2Proof.Machine

/-! ### Writes while BUSY = 1 -/

/-- R256: a register whose write while BUSY = 1 is a fault. -/
def Reg.Guarded (r : Reg) : Prop := r = .cmd ∨ r = .keyLen ∨ (∃ i, r = .key i) ∨ ∃ i, r = .din i

theorem busWrite_busy {s : State} (hb : s.status.busy = true) {r : Reg} (hr : r.Guarded) (v : Word) :
    s.busWrite r.offset 4 v = .next (s.busyWrite r v) := by
  rw [busWrite_offset]
  obtain rfl | rfl | ⟨i, rfl⟩ | ⟨i, rfl⟩ := hr
  · exact writeCmd_busy hb v
  all_goals exact congrArg Host.Outcome.next (if_pos hb)

theorem State.mem_busyWrite_faults (s : State) (r : Reg) (v : Word) (f : Fault) :
    f ∈ (s.busyWrite r v).faults ↔ f ∈ s.faults ∨ f = .busyWrite r v :=
  State.mem_raise _ _ _

theorem State.busyWrite_eq (s : State) (r : Reg) (v : Word) :
    s.busyWrite r v = { s with
      status := { s.status with protoErr := true }, faults := (s.busyWrite r v).faults } :=
  State.raise_eq _ _

theorem busWrite_readOnly (s : State) {r : Reg} (hr : r = .blockSize ∨ r = .keySize ∨ r = .status ∨ ∃ i, r = .dout i)
    (v : Word) : s.busWrite r.offset 4 v = .next s := by
  obtain rfl | rfl | rfl | ⟨i, rfl⟩ := hr <;> exact busWrite_offset s _ v

/-- Settles O28: the write of a guarded register is the busy write, that of a read-only one is ignored. -/
theorem busyWritesIgnored : Obligations.BusyWritesIgnored := by
  unfold Obligations.BusyWritesIgnored
  refine fun s r v hb => ⟨fun hr => ?_, fun hr => busWrite_readOnly s hr v⟩
  exact ⟨_, busWrite_busy hb hr v, s.mem_busyWrite_faults r v, s.busyWrite_eq r v⟩

/-! ### Host reads -/

theorem mem_busRead_offset_faults (s : State) (r : Reg) (x : Nat) (f : Fault) :
    f ∈ (s.busRead r.offset 4 x).faults ↔ f ∈ s.faults ∨ f ∈ s.readFaults r := by
  rw [busRead_offset, State.mem_raiseAll, State.setVar_faults]

theorem mem_readFaults_din (s : State) (i : Fin 4) (f : Fault) :
    f ∈ s.readFaults (.din i) ↔ s.dinW.get i = false ∧ f = .unwrittenInput (.din i) := by
  rw [State.readFaults]
  cases s.dinW.get i <;> simp

theorem mem_readFaults_dout (s : State) (i : Fin 4) (f : Fault) :
    f ∈ s.readFaults (.dout i) ↔ s.status.doutValid = false ∧ f = .doutUnwritten i := by
  rw [State.readFaults]
  cases s.status.doutValid <;> simp

/-- Settles O35: the read records the faults of its register. -/
theorem doutReadBeforeResult : Obligations.DoutReadBeforeResult := by
  unfold Obligations.DoutReadBeforeResult
  intro s i x f
  rw [mem_busRead_offset_faults, mem_readFaults_dout]

/-! ### Inputs consumed without being written -/

theorem exec_setKey_accepted {s : State} (hb : s.status.busy = false) (h4 : s.keyLen.toNat % 4 = 0)
    (hn : s.keyLen.toNat ≤ 32) : exec .setKey s = .next s.startKey := by
  rw [exec_setKey_idle hb, acceptSetKey_of_legal (validate_of_legal h4 hn)]

/-- The start of the expansion records KEY[i] exactly when the key consumes it and its mark is 0 (R258). -/
theorem unwrittenKey_mem_startKey {s : State} {i : Fin 8} (hi : Fault.unwrittenInput (.key i) ∉ s.faults) :
    Fault.unwrittenInput (.key i) ∈ s.startKey.faults ↔ i.val < s.keyLen.toNat / 4 ∧ s.keyW.get i = false := by
  refine (mem_raiseAll_unwrittenKeys s _ _).trans ⟨fun h => ?_, fun ⟨hlt, hw⟩ => Or.inr ⟨i, hlt, hw, rfl⟩⟩
  obtain ⟨j, hlt, hw, hj⟩ := h.resolve_left hi
  cases hj
  exact ⟨hlt, hw⟩

/-- The start of the rounds records DIN[i] exactly when its mark is 0 (R258). -/
theorem unwrittenDin_mem_startBlock {s : State} {i : Fin 4} (hi : Fault.unwrittenInput (.din i) ∉ s.faults)
    (op : BitVec 4) (r : Fin 33) (p : Phase) :
    Fault.unwrittenInput (.din i) ∈ (s.startBlock op r p).faults ↔ s.dinW.get i = false := by
  rw [mem_startBlock_faults]
  simp [hi]

/-- Settles O36: by the faults of the read, of the start of the expansion, and of the start of the rounds. -/
theorem unwrittenInputsRecorded : Obligations.UnwrittenInputsRecorded := by
  unfold Obligations.UnwrittenInputsRecorded
  refine ⟨fun s i x f => ?_, fun s t i hb h4 hn h hi => ?_, fun s t i hb hk h hi => ?_⟩
  · rw [mem_busRead_offset_faults, mem_readFaults_din]
  · rw [exec_setKey_accepted hb h4 hn] at h
    cases h
    exact unwrittenKey_mem_startKey hi
  · rw [exec_encrypt_accepted hb hk, exec_decrypt_accepted hb hk] at h
    obtain h | h := h <;> cases h <;> exact unwrittenDin_mem_startBlock hi _ _ _

/-! ### States without a further step -/

theorem State.final_eq_false_of_faults {s : State} {f : Fault} {fs : List Fault} (h : s.faults = f :: fs) :
    s.final = false := by
  simp [State.final, h]

/-- Settles O42: raising is an addition to the record, and a recorded fault is what the step answers. -/
theorem faultedStateIsQuiescent : Obligations.FaultedStateIsQuiescent := by
  unfold Obligations.FaultedStateIsQuiescent
  exact ⟨fun s f g => ⟨s.mem_raise f g, s.raise_eq f⟩,
    fun s f fs h => ⟨step_of_faults h, State.final_eq_false_of_faults h⟩⟩

/-- With an IDLE core and no host line neither agent moves (20_memory.md R59; 44_round_network.md R219). -/
theorem mover_of_idle {s : State} (hp : s.phase = .idle) (hh : s.host = []) : s.mover = .neither := by
  rw [State.mover, hp, hh]

/-- Settles O43: neither agent moves. -/
theorem idleCoreKeepsState : Obligations.IdleCoreKeepsState := by
  unfold Obligations.IdleCoreKeepsState
  exact fun s hp hf hh => step_of_neither hf (mover_of_idle hp hh)

end Sys2Proof.Machine
end
